-- ==== Sys2Proof/Word.lean ====
section
/-! DEFINITION. The two word types of the TCU (`00_scope.md` R6, `30_encoding.md` R72). -/

namespace Sys2Proof

/-- `u8` of R6: eight bits, bit 0 the least significant. An `s8` is the same pattern, read in two's complement
(`Sys2Proof.Machine.s8`). -/
abbrev Byte := BitVec 8

/-- A command word of R72: 24 bits, bit 23 the most significant. -/
abbrev CmdWord := BitVec 24

end Sys2Proof
end

