-- ==== Sys2Proof/Config.lean ====
section
/-! DEFINITION. The parameters of `00_scope.md` R4 and R5, as constants. No free value is needed here: what the spec
leaves to the environment is plain data of the state (`Sys2Proof.Machine.Env`), quantified over by every statement. -/

namespace Sys2Proof.Config

/-- `ARG_CAP` of R4: the argument buffer holds 20 bytes. -/
abbrev argCap : Nat := 20

/-- `HDR_LEN` of R4: five header bytes on the wire. -/
abbrev hdrLen : Nat := 5

/-- `FRAME_MAX` of R4: `HDR_LEN + ARG_CAP`, the longest frame, and the number of cells of a buffer (R40). -/
abbrev frameMax : Nat := hdrLen + argCap

/-- `CRC_POLY_REFLECTED` of R4. -/
abbrev crcPolyReflected : Byte := 0x8C

/-- `CRC_INIT` of R4: "no initial XOR". -/
abbrev crcInit : Byte := 0x00

/-- `CRC_XOROUT` of R4: "no final XOR". R102 returns the register as it stands. -/
abbrev crcXorOut : Byte := 0x00

/-- `CRC_BITS_PER_BYTE` of R4. -/
abbrev crcBitsPerByte : Nat := 8

/-- `CRC_SENTINEL` of R4: the `crc8` field value meaning "ignore/not applicable". -/
abbrev crcSentinel : Byte := 0x00

/-- `SEQ_MOD` of R4. `SEQ` is a `Byte`, whose addition is modulo this value. -/
def seqMod : Nat := 256

/-- `RX_TIMEOUT` of R4, in time-units that the spec does not name (R5, R196): no rule, and nothing of the model,
depends on it. -/
def rxTimeout : Nat := 500

/-- `NBUF` of R5 (decision D3). -/
abbrev nbuf : Nat := 2

/-- `CMD_W` of R5 (decision D6). -/
def cmdW : Nat := 24

/-- `TRANSPORT_FAILURE_CODE` of R5 and R65 (decision D27): −1. -/
abbrev transportFailureCode : Byte := 0xFF

/-- The default of the open parameter `SEQ_RESET` (R5, R25). Only `State.reset` uses it: the parameter itself is the
field `State.seqReset`, so that every statement about a state holds for every value (assumption 3). -/
abbrev seqResetDefault : Byte := 0x00

end Sys2Proof.Config
end

