-- ==== Sys2Proof/Syntax.lean ====
section
/-! DEFINITION. The instructions: one constructor for each of the 47 rows of `spec/opcode_table.json`, in the table's
order, and the names under which the decoder rejects. -/

namespace Sys2Proof

/-- One constructor per row of `spec/opcode_table.json`. The first fifteen are the commands of `30_encoding.md` R76,
each with the operand fields its format gives it (R73, R74, R75). The other 32 are the telegram opcode constants of
R66: one byte that the link brings to the receive port, which the block carries and does not interpret (R68;
assumption 1). -/
inductive Instr
  /-- `CLEAR Tt` (R91). -/
  | clear (tsel : BitVec 2)
  /-- `RDF Tt[idx]` (R92). -/
  | rdf (tsel : BitVec 2) (idx : BitVec 5)
  /-- `WRF Tt[idx], v` (R93). -/
  | wrf (tsel : BitVec 2) (idx : BitVec 5) (v : Byte)
  /-- `CRCINIT` (R104). -/
  | crcinit
  /-- `CRCBYTE v` (R105). -/
  | crcbyte (v : Byte)
  /-- `CRCRD` (R106). -/
  | crcrd
  /-- `CRCT Tt` (R107). -/
  | crct (tsel : BitVec 2)
  /-- `FINALIZE Tt` (R121). -/
  | finalize (tsel : BitVec 2)
  /-- `ENCODE Tt` (R126). -/
  | encode (tsel : BitVec 2)
  /-- `SEND Tt` (R129). -/
  | send (tsel : BitVec 2)
  /-- `DECODE Tt` (R131). -/
  | decode (tsel : BitVec 2)
  /-- `VERIFY Tt` (R137). -/
  | verify (tsel : BitVec 2)
  /-- `RDSEQ` (R151). -/
  | rdseq
  /-- `RDERR` (R152). -/
  | rderr
  /-- `WRERR v` (R153). -/
  | wrerr (v : Byte)
  /-- `OP_FIRMWARE_VERSION`, 0x01: firmware-version, system band (R66). -/
  | opFirmwareVersion
  /-- `OP_HARDWARE_VERSION`, 0x02: hardware-version, system band (R66). -/
  | opHardwareVersion
  /-- `OP_PROTOCOL_VERSION`, 0x03: protocol-version, system band (R66). -/
  | opProtocolVersion
  /-- `OP_RESPONSE_MARKER`, 0x04: response-marker, system band (R66). -/
  | opResponseMarker
  /-- `OP_HANGUP`, 0x05: hangup, system band (R66). -/
  | opHangup
  /-- `OP_RESEND`, 0x06: resend, system band (R66). -/
  | opResend
  /-- `OP_SENSOR_ID_FIRST`, 0x30: sensor-id, first, control band (R66). -/
  | opSensorIdFirst
  /-- `OP_SENSOR_ID_NEXT`, 0x31: sensor-id, next, control band (R66). -/
  | opSensorIdNext
  /-- `OP_TEMPERATURE_FIRST`, 0x32: temperature, first, control band (R66). -/
  | opTemperatureFirst
  /-- `OP_TEMPERATURE_NEXT`, 0x33: temperature, next, control band (R66). -/
  | opTemperatureNext
  /-- `OP_TEMPERATURE_BY_ID`, 0x34: temperature, by-id, control band (R66). -/
  | opTemperatureById
  /-- `OP_DATA_BLOCK_FIRST`, 0x35: data-block, first, control band (R66). -/
  | opDataBlockFirst
  /-- `OP_DATA_BLOCK_NEXT`, 0x36: data-block, next, control band (R66). -/
  | opDataBlockNext
  /-- `OP_DATA_BLOCK_BY_ID`, 0x37: data-block, by-id, control band (R66). -/
  | opDataBlockById
  /-- `OP_RESOLUTION_GET_FIRST`, 0x38: resolution-get, first, control band (R66). -/
  | opResolutionGetFirst
  /-- `OP_RESOLUTION_GET_NEXT`, 0x39: resolution-get, next, control band (R66). -/
  | opResolutionGetNext
  /-- `OP_RESOLUTION_GET_BY_ID`, 0x3A: resolution-get, by-id, control band (R66). -/
  | opResolutionGetById
  /-- `OP_RESOLUTION_SET_FIRST`, 0x3B: resolution-set, first, control band (R66). -/
  | opResolutionSetFirst
  /-- `OP_RESOLUTION_SET_NEXT`, 0x3C: resolution-set, next, control band (R66). -/
  | opResolutionSetNext
  /-- `OP_RESOLUTION_SET_BY_ID`, 0x3D: resolution-set, by-id, control band (R66). -/
  | opResolutionSetById
  /-- `OP_BUS_RESET`, 0x40: bus-reset, control band (R66). -/
  | opBusReset
  /-- `OP_BUS_RESET_SEARCH`, 0x41: bus-reset-search, control band (R66). -/
  | opBusResetSearch
  /-- `OP_BUS_SELECT_ID`, 0x42: bus-select-id, control band (R66). -/
  | opBusSelectId
  /-- `OP_PARASITIC_CONVERSION`, 0x43: parasitic-conversion, control band (R66). -/
  | opParasiticConversion
  /-- `OP_NO_PARASITIC_CONVERSION`, 0x44: no-parasitic-conversion, control band (R66). -/
  | opNoParasiticConversion
  /-- `OP_READ_SCRATCHPAD`, 0x45: read-scratchpad, control band (R66). -/
  | opReadScratchpad
  /-- `OP_RUN_VERBOSE`, 0x46: run-verbose, control band (R66). -/
  | opRunVerbose
  /-- `OP_RUN_SUMMARY`, 0x47: run-summary, control band (R66). -/
  | opRunSummary
  /-- `OP_RUN_QUIET`, 0x48: run-quiet, control band (R66). -/
  | opRunQuiet
  /-- `OP_BUS_POWER_ON`, 0x4E: bus-power-on, control band (R66). -/
  | opBusPowerOn
  /-- `OP_BUS_POWER_OFF`, 0x4F: bus-power-off, control band (R66). -/
  | opBusPowerOff
  /-- `OP_END_OF_TABLE`, 0xFF: reserved end-of-table marker, reserved band (R66). -/
  | opEndOfTable
  deriving DecidableEq, Repr

/-- What the decoder reads: a 24-bit word from the command port, or one byte from the receive port
(`10_state.md` R23; the table's two spaces, `30_encoding.md`). -/
inductive CodeUnit
  /-- `cmd_word` of the command port. -/
  | command (w : CmdWord)
  /-- `rx_data` of the receive port, read as telegram byte 0. -/
  | telegramByte (b : Byte)
  deriving DecidableEq, Repr

/-- Why the decoder rejects a code unit: the three tests of `30_encoding.md` R77, and the byte without a constant. -/
inductive Reject
  /-- R77 (1): `cop` = 0. -/
  | reservedCop
  /-- R77 (2): a bit that the format says must be zero is set. -/
  | mustBeZero
  /-- R77 (3): `idx` 25 to 31 in RDF or WRF. -/
  | indexRange
  /-- R67: a telegram byte that is none of the 32 constants. It is data all the same (R68), and the step carries it. -/
  | noConstant
  deriving DecidableEq, Repr

/-- The five formats of R73. -/
inductive Format
  | N | T | F | W | I
  deriving DecidableEq, Repr

/-- The bands of R66 and R67. -/
inductive Band
  | system | control | reserved
  deriving DecidableEq, Repr

end Sys2Proof
end

