-- ==== Sys2Proof/WellFormed.lean ====
section
/-! DEFINITION. Well-formedness: the one bound that the operand types do not carry, `idx` ≤ 24 of formats F and W
(`30_encoding.md` R73, R74). Every other operand may hold any value of its field; a `tsel` of 2 or 3 is legal (R77). -/

namespace Sys2Proof

/-- `idx` names one of the 25 cells of a buffer (`20_memory.md` R40). -/
def indexInBuffer (idx : BitVec 5) : Bool := idx.toNat < Config.frameMax

/-- The checks of R77 (3), on the syntax: only RDF and WRF have one. -/
def Instr.wellFormed : Instr → Bool
  | .rdf _ idx => indexInBuffer idx
  | .wrf _ idx _ => indexInBuffer idx
  | .clear _ | .crcinit | .crcbyte _ | .crcrd | .crct _ | .finalize _ | .encode _ | .send _ | .decode _
  | .verify _ | .rdseq | .rderr | .wrerr _ => true
  | .opFirmwareVersion | .opHardwareVersion | .opProtocolVersion | .opResponseMarker | .opHangup | .opResend
  | .opSensorIdFirst | .opSensorIdNext | .opTemperatureFirst | .opTemperatureNext | .opTemperatureById
  | .opDataBlockFirst | .opDataBlockNext | .opDataBlockById | .opResolutionGetFirst | .opResolutionGetNext
  | .opResolutionGetById | .opResolutionSetFirst | .opResolutionSetNext | .opResolutionSetById | .opBusReset
  | .opBusResetSearch | .opBusSelectId | .opParasiticConversion | .opNoParasiticConversion | .opReadScratchpad
  | .opRunVerbose | .opRunSummary | .opRunQuiet | .opBusPowerOn | .opBusPowerOff | .opEndOfTable => true

/-- An instruction that some code unit encodes. -/
abbrev WellFormed (i : Instr) : Prop := i.wellFormed = true

end Sys2Proof
end

