-- ==== Sys2Proof/Decode.lean ====
section
/-! DEFINITION. The decoder (`30_encoding.md` R66, R72 to R77, R80), and after it the encoder, written from the same
tables. -/

namespace Sys2Proof

/-! ### The decoder -/

/-- `cop`, bits 23:20 (R72). -/
def copField (w : CmdWord) : BitVec 4 := w.extractLsb' 20 4

/-- `tsel`, bits 14:13 (R72, R74). -/
def tselField (w : CmdWord) : BitVec 2 := w.extractLsb' 13 2

/-- `idx`, bits 12:8 (R72, R74). -/
def idxField (w : CmdWord) : BitVec 5 := w.extractLsb' 8 5

/-- `V`, bits 7:0 (R72, R75). -/
def valueField (w : CmdWord) : Byte := w.extractLsb' 0 8

/-- The mask column of R73: the bits of a word that its format fixes. -/
def formatMask : Format → CmdWord
  | .N => 0xFFFFFF
  | .T => 0xFF9FFF
  | .F => 0xFF80FF
  | .W => 0xFF8000
  | .I => 0xFFFF00

/-- The format column of R76; `cop` = 0 has none. -/
def formatOf (cop : BitVec 4) : Option Format :=
  match cop.toNat with
  | 0x1 => some .T
  | 0x2 => some .F
  | 0x3 => some .W
  | 0x4 => some .N
  | 0x5 => some .I
  | 0x6 => some .N
  | 0x7 => some .T
  | 0x8 => some .T
  | 0x9 => some .T
  | 0xA => some .T
  | 0xB => some .T
  | 0xC => some .T
  | 0xD => some .N
  | 0xE => some .N
  | 0xF => some .I
  | _ => none

/-- R77 (3): formats F and W bound `idx`. -/
def formatBoundsIndex : Format → Bool
  | .F => true
  | .W => true
  | .N => false
  | .T => false
  | .I => false

/-- R77 (4): the command of a `cop`, with the fields its format uses (the mnemonic column of R76). -/
def commandOf (cop : BitVec 4) (tsel : BitVec 2) (idx : BitVec 5) (v : Byte) : Option Instr :=
  match cop.toNat with
  | 0x1 => some (.clear tsel)
  | 0x2 => some (.rdf tsel idx)
  | 0x3 => some (.wrf tsel idx v)
  | 0x4 => some .crcinit
  | 0x5 => some (.crcbyte v)
  | 0x6 => some .crcrd
  | 0x7 => some (.crct tsel)
  | 0x8 => some (.finalize tsel)
  | 0x9 => some (.encode tsel)
  | 0xA => some (.send tsel)
  | 0xB => some (.decode tsel)
  | 0xC => some (.verify tsel)
  | 0xD => some .rdseq
  | 0xE => some .rderr
  | 0xF => some (.wrerr v)
  | _ => none

/-- R77, in its order: `cop`, the must-be-zero bits, the bound on `idx`, the command. A `tsel` of 2 or 3 is "not a
decoding matter". -/
def decodeCommand (w : CmdWord) : Except Reject Instr :=
  match formatOf (copField w) with
  | none => .error .reservedCop
  | some f =>
    if w &&& formatMask f ≠ (copField w).setWidth 24 <<< 20 then .error .mustBeZero
    else if formatBoundsIndex f && !indexInBuffer (idxField w) then .error .indexRange
    else
      match commandOf (copField w) (tselField w) (idxField w) (valueField w) with
      | some i => .ok i
      | none => .error .reservedCop

/-- The table of R66: the 32 telegram opcode constants. -/
def opcodeOf (b : Byte) : Option Instr :=
  match b.toNat with
  | 0x01 => some .opFirmwareVersion
  | 0x02 => some .opHardwareVersion
  | 0x03 => some .opProtocolVersion
  | 0x04 => some .opResponseMarker
  | 0x05 => some .opHangup
  | 0x06 => some .opResend
  | 0x30 => some .opSensorIdFirst
  | 0x31 => some .opSensorIdNext
  | 0x32 => some .opTemperatureFirst
  | 0x33 => some .opTemperatureNext
  | 0x34 => some .opTemperatureById
  | 0x35 => some .opDataBlockFirst
  | 0x36 => some .opDataBlockNext
  | 0x37 => some .opDataBlockById
  | 0x38 => some .opResolutionGetFirst
  | 0x39 => some .opResolutionGetNext
  | 0x3A => some .opResolutionGetById
  | 0x3B => some .opResolutionSetFirst
  | 0x3C => some .opResolutionSetNext
  | 0x3D => some .opResolutionSetById
  | 0x40 => some .opBusReset
  | 0x41 => some .opBusResetSearch
  | 0x42 => some .opBusSelectId
  | 0x43 => some .opParasiticConversion
  | 0x44 => some .opNoParasiticConversion
  | 0x45 => some .opReadScratchpad
  | 0x46 => some .opRunVerbose
  | 0x47 => some .opRunSummary
  | 0x48 => some .opRunQuiet
  | 0x4E => some .opBusPowerOn
  | 0x4F => some .opBusPowerOff
  | 0xFF => some .opEndOfTable
  | _ => none

/-- A telegram byte 0 read as one of the constants of R66. -/
def decodeTelegramByte (b : Byte) : Except Reject Instr :=
  match opcodeOf b with
  | some i => .ok i
  | none => .error .noConstant

/-- The decoder: total, and rejecting by name. -/
def decode : CodeUnit → Except Reject Instr
  | .command w => decodeCommand w
  | .telegramByte b => decodeTelegramByte b

/-- The code unit of `nbits` bits with the value `w`, in the numbering of `spec/opcode_table.json`: 24 bits are a
command word, 8 bits a telegram byte. No other row width is in the table. -/
def codeUnitOf (nbits w : Nat) : Option CodeUnit :=
  if nbits = 24 then some (.command (BitVec.ofNat 24 w))
  else if nbits = 8 then some (.telegramByte (BitVec.ofNat 8 w))
  else none

/-- What the decoder reads from an instruction whose bits are `w`. -/
def decodeTableWord (nbits w : Nat) : Option Instr :=
  match codeUnitOf nbits w with
  | none => none
  | some u => (decode u).toOption

/-- The band of a telegram opcode: the band column of R66. A byte without a constant has none (R67). -/
def opcodeBand (b : Byte) : Option Band :=
  match opcodeOf b with
  | none => none
  | some _ =>
    if b.toNat ≤ 0x06 then some .system
    else if b = 0xFF then some .reserved
    else some .control

/-! ### The encoder -/

/-- Format N of R73: `cop`, then zeros. -/
def wordN (cop : BitVec 4) : CmdWord := cop ++ 0#20

/-- Format T of R73. -/
def wordT (cop : BitVec 4) (tsel : BitVec 2) : CmdWord := cop ++ 0#5 ++ tsel ++ 0#13

/-- Format F of R73. -/
def wordF (cop : BitVec 4) (tsel : BitVec 2) (idx : BitVec 5) : CmdWord := cop ++ 0#5 ++ tsel ++ idx ++ 0#8

/-- Format W of R73. -/
def wordW (cop : BitVec 4) (tsel : BitVec 2) (idx : BitVec 5) (v : Byte) : CmdWord := cop ++ 0#5 ++ tsel ++ idx ++ v

/-- Format I of R73. -/
def wordI (cop : BitVec 4) (v : Byte) : CmdWord := cop ++ 0#12 ++ v

/-- The code unit of an instruction: the `cop` and format columns of R76 for the commands, the value column of R66
for the telegram opcodes. -/
def encode : Instr → CodeUnit
  | .clear tsel => .command (wordT 0x1 tsel)
  | .rdf tsel idx => .command (wordF 0x2 tsel idx)
  | .wrf tsel idx v => .command (wordW 0x3 tsel idx v)
  | .crcinit => .command (wordN 0x4)
  | .crcbyte v => .command (wordI 0x5 v)
  | .crcrd => .command (wordN 0x6)
  | .crct tsel => .command (wordT 0x7 tsel)
  | .finalize tsel => .command (wordT 0x8 tsel)
  | .encode tsel => .command (wordT 0x9 tsel)
  | .send tsel => .command (wordT 0xA tsel)
  | .decode tsel => .command (wordT 0xB tsel)
  | .verify tsel => .command (wordT 0xC tsel)
  | .rdseq => .command (wordN 0xD)
  | .rderr => .command (wordN 0xE)
  | .wrerr v => .command (wordI 0xF v)
  | .opFirmwareVersion => .telegramByte 0x01
  | .opHardwareVersion => .telegramByte 0x02
  | .opProtocolVersion => .telegramByte 0x03
  | .opResponseMarker => .telegramByte 0x04
  | .opHangup => .telegramByte 0x05
  | .opResend => .telegramByte 0x06
  | .opSensorIdFirst => .telegramByte 0x30
  | .opSensorIdNext => .telegramByte 0x31
  | .opTemperatureFirst => .telegramByte 0x32
  | .opTemperatureNext => .telegramByte 0x33
  | .opTemperatureById => .telegramByte 0x34
  | .opDataBlockFirst => .telegramByte 0x35
  | .opDataBlockNext => .telegramByte 0x36
  | .opDataBlockById => .telegramByte 0x37
  | .opResolutionGetFirst => .telegramByte 0x38
  | .opResolutionGetNext => .telegramByte 0x39
  | .opResolutionGetById => .telegramByte 0x3A
  | .opResolutionSetFirst => .telegramByte 0x3B
  | .opResolutionSetNext => .telegramByte 0x3C
  | .opResolutionSetById => .telegramByte 0x3D
  | .opBusReset => .telegramByte 0x40
  | .opBusResetSearch => .telegramByte 0x41
  | .opBusSelectId => .telegramByte 0x42
  | .opParasiticConversion => .telegramByte 0x43
  | .opNoParasiticConversion => .telegramByte 0x44
  | .opReadScratchpad => .telegramByte 0x45
  | .opRunVerbose => .telegramByte 0x46
  | .opRunSummary => .telegramByte 0x47
  | .opRunQuiet => .telegramByte 0x48
  | .opBusPowerOn => .telegramByte 0x4E
  | .opBusPowerOff => .telegramByte 0x4F
  | .opEndOfTable => .telegramByte 0xFF

end Sys2Proof
end

