-- ==== Sys2Proof/Machine/State.lean ====
section
/-! DEFINITION. The state of the TCU as plain data, the state after reset, and the names of its stops.

The block's own 53 bytes (`10_state.md`, the table at its head) are `mem`, `seq`, `lastErr` and `crcAcc`. The other
fields are not state of the block in the spec's sense (R24): its result outputs, the two transport streams, the
environment's answers, what the outside presents next, and one open parameter. They stand here because a step is a
function of the state alone. -/

namespace Sys2Proof.Machine

/-- The two telegram buffers `T[0]` and `T[1]` (`10_state.md` R10). -/
inductive Buf
  | t0 | t1
  deriving DecidableEq, Repr

/-- The five header fields of a buffer (R11). `args[j]` is byte 5 + j. -/
inductive Field
  | opcode | crc8 | sequence | status | argCnt
  deriving DecidableEq, Repr

/-- The conditions of `30_encoding.md` R64 and R65. The TCU signals NullReference, TransportFailure, Timeout,
ChecksumFailure and DataDropped (`60_exceptions.md` R181), and never the others (R187). -/
inductive Condition
  | unspecified | bufferOverflow | timeout | checksumFailure | unknownOpcode | invalidArgCount
  | statusOutOfRange | nullReference | protocolMismatch | dataDropped | transportFailure
  deriving DecidableEq, Repr

/-- The three outputs of a command, `RES` (`10_state.md` R20). -/
structure Res where
  /-- `RES.code`, an `s8` held as its pattern. -/
  code : Byte
  /-- `RES.flag`. -/
  flag : Bool
  /-- `RES.val`. -/
  val : Byte
  deriving DecidableEq, Repr

/-- The memory of the block: the buffer byte space of `20_memory.md` R40, by the 7-bit address `{tsel, idx}`. A list
of (address, byte) pairs; an address that is not listed reads as 0x00, the reset contents of R25. Its canonical form
is `Memory.wf`. -/
abbrev Memory := List Host.Cell

/-- What the transport answers to `TxWrite` (`20_memory.md` R45). -/
inductive WriteAnswer
  /-- `Ok`: every byte is appended to `TX`. -/
  | ok
  /-- `Fail`: the first `k` bytes of the frame are appended, `k` the environment's choice (all of them when the frame
  is shorter). -/
  | fail (k : Nat)
  deriving DecidableEq, Repr

/-- What the transport does with one `RxRead(n)` (`20_memory.md` R47, R48). -/
inductive ReadAnswer
  /-- What `RX` holds arrives before the timeout: `Bytes` when `RX` holds `n` bytes, `Timeout` when it holds fewer. -/
  | arrive
  /-- `Timeout` after `k` bytes, `k` the environment's choice below `n`. -/
  | timeout (k : Nat)
  /-- `Fail` after `k` bytes, `k` the environment's choice below `n`. -/
  | fail (k : Nat)
  deriving DecidableEq, Repr

/-- The environment's answers to one command (`20_memory.md` R44 to R49). A command asks for at most one `TxAvail`,
one `TxWrite`, one `RxAvail` and two `RxRead`s, so five answers are all that a step can need. -/
structure Env where
  /-- `TxAvail()` (R44). -/
  txAvail : Bool
  /-- `TxWrite(bs)` (R45). -/
  txWrite : WriteAnswer
  /-- `RxAvail()` (R46). -/
  rxAvail : Bool
  /-- `RxRead(5)`, the header (R131). -/
  header : ReadAnswer
  /-- `RxRead(n)`, the arguments (R131). -/
  args : ReadAnswer
  deriving DecidableEq, Repr

/-- What the outside can do to the block between two commands (`10_state.md` R23, `70_reset_and_hazards.md` R211). -/
inductive Input
  /-- The host presents a command word on `cmd_word`; `env` is what the environment answers while it runs. -/
  | command (w : CmdWord) (env : Env)
  /-- The link delivers a byte on `rx_data`; it waits in the transport (R23). -/
  | linkByte (b : Byte)
  /-- `rst`, modelled only between commands (R211). -/
  | reset
  deriving DecidableEq, Repr

/-- The machine's state. -/
structure State where
  /-- `T[0]` and `T[1]`, 25 bytes each (`10_state.md` R10, R11; `20_memory.md` R40). -/
  mem : Memory
  /-- `SEQ` (R16): the number the next finalization assigns. -/
  seq : Byte
  /-- `LASTERR` (R17): an `s8` held as its pattern. -/
  lastErr : Byte
  /-- `CRCACC` (R18). -/
  crcAcc : Byte
  /-- The result outputs (R20, R23): `some r` when `res_valid` is high, that is in the state in which a command has
  just ended. `none` when `res_valid` is low: the spec says nothing of the outputs then (R20, R25). -/
  res : Option Res
  /-- `TX` (`20_memory.md` R41): every byte handed to the transport since reset, in order. Not state of the block. -/
  tx : List Byte
  /-- `RX` (R41): the bytes the transport has for the block, in order of arrival. Not state of the block. -/
  rx : List Byte
  /-- The model's own: the environment's answers to the command in hand (R49). -/
  env : Env
  /-- The model's own: what the outside presents next, in order. -/
  inputs : List Input
  /-- `SEQ_RESET` (`00_scope.md` R5), an open parameter: no step changes it, and a reset loads it into `seq`. -/
  seqReset : Byte
  deriving DecidableEq, Repr

/-- What an address that memory does not list reads as: 0x00 (`10_state.md` R25). -/
def unlistedByte : Byte := 0x00

/-- Why the machine stops with a fault. The spec has no fault that stops the block
(`93_implementation_defined.md`, part 1), and no step from any state answers one. -/
inductive Fault
  /-- Raised by `exec` alone, on an RDF or WRF whose `idx` is 25 to 31, which names no cell (`20_memory.md` R51). The
  decoder refuses such a word, so `step` never answers it. Safe: the machine stops. -/
  | noSuchCell (idx : BitVec 5)
  deriving DecidableEq, Repr

/-- Why the machine has no step. -/
inductive Refusal
  /-- Raised by an arm of `exec` that has no meaning yet; there is none. Safe. -/
  | notModelled (mnemonic : String)
  /-- Raised by the fetch, on a reserved command word, to which the spec gives no behaviour (`30_encoding.md` R80;
  U1: refuse). Safe. -/
  | reservedWord (why : Reject)
  /-- Raised by ENCODE of a buffer whose `arg_cnt` is 21 to 255, to which the spec gives no behaviour (`42_codec.md`
  R128; U2: refuse). Safe. -/
  | encodeOversized (argCnt : Byte)
  deriving DecidableEq, Repr

/-- What a meaning answers. -/
abbrev Result := Host.Outcome State Fault Refusal

/-- The environment that a state after reset names, for a command placed without one (assumption 4): the transport is
available, accepts every write, and delivers what `RX` holds. -/
def Env.default : Env :=
  { txAvail := true, txWrite := .ok, rxAvail := true, header := .arrive, args := .arrive }

/-- The state after reset (`10_state.md` R25, `70_reset_and_hazards.md` R210) for a value of `SEQ_RESET`, with nothing
in the transport and nothing presented. -/
def State.resetWith (seqReset : Byte) : State :=
  { mem := [], seq := seqReset, lastErr := 0x00, crcAcc := Config.crcInit, res := none, tx := [], rx := [],
    env := Env.default, inputs := [], seqReset := seqReset }

/-- The state after reset, with the spec's default of `SEQ_RESET` (R5). -/
def State.reset : State := State.resetWith Config.seqResetDefault

end Sys2Proof.Machine
end

