-- ==== Sys2Proof/Machine/Flags.lean ====
section
/-! DEFINITION. What the block computes: the checksum (`41_crc8.md` R100 to R102), the status values
(`30_encoding.md` R64, R65), and the tests of `00_scope.md` R9: the clamp and the acceptance of a checksum. -/

namespace Sys2Proof.Machine

/-! ### Signed bytes (`00_scope.md` R6) -/

/-- `s8(v)`: the pattern read in two's complement. -/
def s8 (v : Byte) : Int := v.toInt

/-- `u8(s)`: the pattern of a signed value. -/
def u8 (s : Int) : Byte := BitVec.ofInt 8 s

/-! ### The checksum -/

/-- `crc8_bit(c, d)` (R100): the feedback bit is bit 0 of the register exclusive or the data bit; the register is
shifted right by one, and 0x8C is exclusive-ored onto it when the feedback bit is 1. -/
def crcBit (c : Byte) (d : Bool) : Byte :=
  if (c.getLsbD 0 ^^ d) = true then (c >>> 1) ^^^ Config.crcPolyReflected else c >>> 1

/-- `crc8_byte(c, b)` (R101): eight bit iterations, the least significant bit of `b` first. -/
def crcByte (c b : Byte) : Byte :=
  (List.range Config.crcBitsPerByte).foldl (fun c i => crcBit c (b.getLsbD i)) c

/-- The loop of R102, started from a register value `c`. -/
def crcFrom (c : Byte) (bs : List Byte) : Byte := bs.foldl crcByte c

/-- `crc8(bs)` (R102). -/
def crc8 (bs : List Byte) : Byte := crcFrom Config.crcInit bs

/-! ### Status values -/

/-- `code(C)`: the status value of a condition (R64; R65 for TransportFailure). -/
def statusCode : Condition → Byte
  | .unspecified => u8 (-1)
  | .bufferOverflow => u8 (-2)
  | .timeout => u8 (-3)
  | .checksumFailure => u8 (-4)
  | .unknownOpcode => u8 (-5)
  | .invalidArgCount => u8 (-6)
  | .statusOutOfRange => u8 (-7)
  | .nullReference => u8 (-8)
  | .protocolMismatch => u8 (-9)
  | .dataDropped => u8 1
  | .transportFailure => Config.transportFailureCode

/-! ### Tests -/

/-- The unsigned comparison of `arg_cnt` with the capacity (R9 (c), R122): 21 to 255 exceed it. -/
def exceedsCapacity (argCnt : Byte) : Bool := Config.argCap < argCnt.toNat

/-- `min(arg_cnt, 20)` (R107, R131, R137). -/
def argLimit (argCnt : Byte) : Nat := min argCnt.toNat Config.argCap

/-- The acceptance test of VERIFY (`42_codec.md` R137, R138): a stored sentinel is never a mismatch. -/
def checksumAccepted (stored computed : Byte) : Bool :=
  stored == Config.crcSentinel || stored == computed

end Sys2Proof.Machine
end

