-- ==== Sys2Proof/Machine/Ops.lean ====
section
/-! DEFINITION. The named operations of the machine: the buffer byte space, the session registers, the conditions, the
transport primitives, the parts that commands share, and the fetch. -/

namespace Sys2Proof.Machine

/-! ### Memory (`20_memory.md` R40) -/

/-- One byte of memory; an address that is not listed reads as `unlistedByte`. -/
def readByte : Memory → Nat → Byte
  | [], _ => unlistedByte
  | (k, v) :: m, a => if k = a then v else readByte m a

/-- Memory with nothing listed at an address. -/
def eraseByte (m : Memory) (a : Nat) : Memory := m.filter fun c => c.1 != a

/-- Memory with an entry put before the first higher address. -/
def insertByte : Memory → Nat → Byte → Memory
  | [], a, b => [(a, b)]
  | (k, v) :: m, a, b => if a < k then (a, b) :: (k, v) :: m else (k, v) :: insertByte m a b

/-- One byte written. Writing what an unlisted address reads as removes the entry. -/
def writeByte (m : Memory) (a : Nat) (b : Byte) : Memory :=
  if b = unlistedByte then eraseByte m a else insertByte (eraseByte m a) a b

/-- Consecutive bytes written, the first at `a`. -/
def writeBytes : Memory → Nat → List Byte → Memory
  | m, _, [] => m
  | m, a, b :: bs => writeBytes (writeByte m a b) (a + 1) bs

/-- `n` consecutive bytes, the first at `a`. -/
def readBytes (m : Memory) (a n : Nat) : List Byte := (List.range n).map fun i => readByte m (a + i)

/-- An address that names a cell: `{tsel, idx}` with `tsel` 0 or 1 and `idx` 0 to 24 (R40, R51). -/
def isCell (a : Nat) : Bool := a < 32 * Config.nbuf && a % 32 < Config.frameMax

/-- The addresses rise strictly. -/
def risingFrom : Nat → Memory → Bool
  | _, [] => true
  | lo, c :: m => lo ≤ c.1 && risingFrom (c.1 + 1) m

/-- The canonical form: addresses strictly rising, each the address of a cell, and no entry that an unlisted address
would read as. Equal memories are then equal lists. -/
def Memory.wf (m : Memory) : Bool :=
  risingFrom 0 m && m.all fun c => isCell c.1 && c.2 != unlistedByte

/-! ### Buffers (`10_state.md` R11; `20_memory.md` R40) -/

/-- The address of byte 0 of a buffer: `{tsel, 00000}`. -/
def Buf.base : Buf → Nat
  | .t0 => 0
  | .t1 => 32

/-- The byte index of a header field. -/
def Field.index : Field → Nat
  | .opcode => 0
  | .crc8 => 1
  | .sequence => 2
  | .status => 3
  | .argCnt => 4

/-- The byte index of `args[j]`. -/
def argIndex (j : Nat) : Nat := Config.hdrLen + j

/-- `T[t][i]` (`00_scope.md` R7). -/
def State.byte (s : State) (t : Buf) (i : Nat) : Byte := readByte s.mem (t.base + i)

/-- A header field `T[t].f`. -/
def State.field (s : State) (t : Buf) (f : Field) : Byte := s.byte t f.index

/-- `T[t].args[0..n)`. -/
def State.argBytes (s : State) (t : Buf) (n : Nat) : List Byte := readBytes s.mem (t.base + argIndex 0) n

/-- Replace the memory. -/
def State.setMem (s : State) (m : Memory) : State := { s with mem := m }

/-- `T[t][i] <- b`. -/
def State.setByte (s : State) (t : Buf) (i : Nat) (b : Byte) : State := s.setMem (writeByte s.mem (t.base + i) b)

/-- `T[t].f <- b`. -/
def State.setField (s : State) (t : Buf) (f : Field) (b : Byte) : State := s.setByte t f.index b

/-- `T[t][0..] <- bs`. -/
def State.setBytes (s : State) (t : Buf) (bs : List Byte) : State := s.setMem (writeBytes s.mem t.base bs)

/-- All 25 bytes of a buffer set to 0x00 (R91; the first act of DECODE, R131). -/
def State.clearBuffer (s : State) (t : Buf) : State := s.setBytes t (List.replicate Config.frameMax 0x00)

/-! ### Session registers and streams -/

/-- `SEQ <- v`. -/
def State.setSeq (s : State) (v : Byte) : State := { s with seq := v }

/-- `LASTERR <- v`. -/
def State.setLastErr (s : State) (v : Byte) : State := { s with lastErr := v }

/-- `CRCACC <- v`. -/
def State.setCrcAcc (s : State) (v : Byte) : State := { s with crcAcc := v }

/-- The result outputs. -/
def State.setRes (s : State) (r : Option Res) : State := { s with res := r }

/-- The transmit stream. -/
def State.setTx (s : State) (bs : List Byte) : State := { s with tx := bs }

/-- The receive stream. -/
def State.setRx (s : State) (bs : List Byte) : State := { s with rx := bs }

/-! ### Results and conditions (`00_scope.md` R7; `60_exceptions.md` R180, R190) -/

/-- The outputs at the start of every command: 0, `false`, 0x00 (R7). -/
def Res.initial : Res := { code := 0x00, flag := false, val := 0x00 }

/-- The command ends and presents its result (R8). -/
def finish (r : Res) (s : State) : Result := .next (s.setRes (some r))

/-- `RES.code <- code(C)`. -/
def signal (c : Condition) (r : Res) : Res := { r with code := statusCode c }

/-- `LASTERR <- code(C)`. -/
def record (c : Condition) (s : State) : State := s.setLastErr (statusCode c)

/-- `raise C`, which is all of taking an exception here (R180, R190): the condition is recorded in `LASTERR` and in
`RES.code`, and the command ends. Nothing is saved, no mode changes and control goes nowhere, so there is nothing to
return from (R192). A `warn C` is `signal` and `record` without the end. -/
def raise (c : Condition) (r : Res) (s : State) : Result := finish (signal c r) (record c s)

/-! ### The transport (`20_memory.md` R44 to R49) -/

/-- `TxWrite(bs)` (R45): whether it answers `Ok`, and the state with what has reached `TX`. -/
def txWrite (bs : List Byte) (s : State) : Bool × State :=
  match s.env.txWrite with
  | .ok => (true, s.setTx (s.tx ++ bs))
  | .fail k => (false, s.setTx (s.tx ++ bs.take k))

/-- The three answers of `RxRead`. -/
inductive ReadResult
  | bytes (bs : List Byte)
  | timeout
  | fail
  deriving DecidableEq, Repr

/-- `RxRead(n)` (R47, R48) under an answer of the environment, and the state with what is left of `RX`. `Bytes` takes
the first `n` bytes. `Timeout` and `Fail` lose the bytes that had arrived, fewer than `n`. -/
def rxRead (n : Nat) (answer : ReadAnswer) (s : State) : ReadResult × State :=
  match answer with
  | .arrive =>
    if n ≤ s.rx.length then (.bytes (s.rx.take n), s.setRx (s.rx.drop n)) else (.timeout, s.setRx [])
  | .timeout k => (.timeout, s.setRx (s.rx.drop (min k (n - 1))))
  | .fail k => (.fail, s.setRx (s.rx.drop (min k (n - 1))))

/-- A byte that the link delivers while no DECODE asks for one "waits in the transport, not in the block"
(`10_state.md` R23): `RX` grows at its end, the block's state is untouched, and no result is presented. -/
def carry (b : Byte) (s : State) : State := (s.setRx (s.rx ++ [b])).setRes none

/-! ### Finalization and framing (`42_codec.md`), shared by FINALIZE, ENCODE, SEND and DECODE -/

/-- The checksum of a telegram's arguments, over `min(arg_cnt, 20)` bytes (R107, R137). -/
def telegramCrc (t : Buf) (s : State) : Byte := crc8 (s.argBytes t (argLimit (s.field t .argCnt)))

/-- Step 1 of R121, the clamp (R122), with its warning. -/
def clampStep (t : Buf) (r : Res) (s : State) : Res × State :=
  if exceedsCapacity (s.field t .argCnt) then
    (signal .dataDropped r,
      record .dataDropped
        ((s.setField t .argCnt (BitVec.ofNat 8 Config.argCap)).setField t .status (statusCode .dataDropped)))
  else (r, s)

/-- Step 2 of R121, the checksum (R123): the sentinel when there are no arguments. -/
def checksumStep (t : Buf) (s : State) : State :=
  if s.field t .argCnt = 0x00 then s.setField t .crc8 Config.crcSentinel
  else s.setField t .crc8 (crc8 (s.argBytes t (s.field t .argCnt).toNat))

/-- Step 3 of R121, the sequence number (R124): assigned, then incremented modulo 256. -/
def sequenceStep (t : Buf) (s : State) : State := (s.setField t .sequence s.seq).setSeq (s.seq + 1)

/-- Steps 1, 2 and 3 of R121, and `RES.flag <- true`. -/
def finalizeSteps (t : Buf) (r : Res) (s : State) : Res × State :=
  ({ (clampStep t r s).1 with flag := true }, sequenceStep t (checksumStep t (clampStep t r s).2))

/-- The frame of a telegram (`30_encoding.md` R60): the five header bytes in field order, then `arg_cnt` arguments. -/
def frame (t : Buf) (s : State) : List Byte :=
  [s.field t .opcode, s.field t .crc8, s.field t .sequence, s.field t .status, s.field t .argCnt]
    ++ s.argBytes t (s.field t .argCnt).toNat

/-- ENCODE from its `TxAvail()` test onward (R126, R127). -/
def transmit (t : Buf) (r : Res) (s : State) : Result :=
  if s.env.txAvail then
    match txWrite (frame t s) s with
    | (true, s') => finish r s'
    | (false, s') => raise .transportFailure r s'
  else raise .transportFailure r s

/-- The read of the arguments (R131, R132): no read at all when the header announces none. -/
def readArgs (n : Nat) (s : State) : ReadResult × State :=
  if n = 0 then (.bytes [], s) else rxRead n s.env.args s

/-- A received telegram stored, and the warning of an oversized header (R131, R133): the first four header bytes as
received, `arg_cnt` as clamped, the arguments. -/
def storeTelegram (t : Buf) (header args : List Byte) (s : State) : Result :=
  if exceedsCapacity (header.getD 4 0x00) then
    finish (signal .dataDropped Res.initial)
      (record .dataDropped
        (s.setBytes t (header.take 4 ++ [BitVec.ofNat 8 (argLimit (header.getD 4 0x00))] ++ args)))
  else
    finish Res.initial (s.setBytes t (header.take 4 ++ [BitVec.ofNat 8 (argLimit (header.getD 4 0x00))] ++ args))

/-- DECODE after its header read (R131). -/
def receiveArgs (t : Buf) (header : List Byte) (s : State) : Result :=
  match readArgs (argLimit (header.getD 4 0x00)) s with
  | (.timeout, s') => raise .timeout Res.initial s'
  | (.fail, s') => raise .transportFailure Res.initial s'
  | (.bytes args, s') => storeTelegram t header args s'

/-- DECODE from its `RxAvail()` test onward (R131); the destination is already clear. -/
def receive (t : Buf) (s : State) : Result :=
  if s.env.rxAvail then
    match rxRead Config.hdrLen s.env.header s with
    | (.timeout, s') => raise .timeout Res.initial s'
    | (.fail, s') => raise .transportFailure Res.initial s'
    | (.bytes header, s') => receiveArgs t header s'
  else raise .transportFailure Res.initial s

/-! ### Reset and the fetch -/

/-- Reset as a step between two commands (`70_reset_and_hazards.md` R210 to R212): the block's state is that of R25,
`RX` keeps its bytes, and `TX`, "every byte the block has handed to the transport since reset", starts again. -/
def resetBlock (s : State) : State :=
  { s with mem := [], seq := s.seqReset, lastErr := 0x00, crcAcc := Config.crcInit, res := none, tx := [] }

/-- What the outside presents next. -/
inductive Fetched
  /-- An instruction, and the state it runs in. -/
  | run (i : Instr) (s : State)
  /-- Something that is no instruction, and the state after it. -/
  | quiet (s : State)
  /-- A reserved command word. -/
  | reserved (why : Reject)

/-- The next input, taken and decoded. A command word brings the environment's answers with it. A telegram byte
without a constant is carried like the others (`30_encoding.md` R68). With nothing presented the block is idle
(`10_state.md` R19): nothing changes, and no result is presented. -/
def fetch (s : State) : Fetched :=
  match s.inputs with
  | [] => .quiet (s.setRes none)
  | .reset :: rest => .quiet (resetBlock { s with inputs := rest })
  | .command w env :: rest =>
    match decode (.command w) with
    | .ok i => .run i { s with inputs := rest, env := env }
    | .error why => .reserved why
  | .linkByte b :: rest =>
    match decode (.telegramByte b) with
    | .ok i => .run i { s with inputs := rest }
    | .error _ => .quiet (carry b { s with inputs := rest })

/-- The input that presents a code unit; a command word is presented with the answers the state names. -/
def presenting (s : State) : CodeUnit → Input
  | .command w => .command w s.env
  | .telegramByte b => .linkByte b

/-- The state in which an instruction of the opcode table is what the outside presents next. -/
def placeWord (s : State) (nbits w : Nat) : State :=
  match codeUnitOf nbits w with
  | some u => { s with inputs := presenting s u :: s.inputs }
  | none => s

end Sys2Proof.Machine
end

