-- ==== Sys2Proof/Machine/Operands.lean ====
section
/-! DEFINITION. The operand forms of a command: the telegram selector and the byte index (`30_encoding.md` R74). `V` is
used as it stands (R75). -/

namespace Sys2Proof.Machine

/-- The buffer that a `tsel` names: 0 is `T[0]`, 1 is `T[1]`, 2 and 3 name none (`10_state.md` R10). -/
def telegram (tsel : BitVec 2) : Option Buf :=
  if tsel = 0 then some .t0
  else if tsel = 1 then some .t1
  else none

/-- R90: a telegram operand is tested first. An absent telegram raises NullReference and the command touches nothing
else; otherwise the command goes on with the buffer. -/
def withTelegram (tsel : BitVec 2) (s : State) (body : Buf → Result) : Result :=
  match telegram tsel with
  | none => raise .nullReference Res.initial s
  | some t => body t

/-- The byte index of formats F and W. It is range-checked before `tsel` (R74). The decoder has done so already
(R77 (3)), so the fault is never met by a decoded instruction. -/
def withIndex (idx : BitVec 5) (body : Nat → Result) : Result :=
  if indexInBuffer idx then body idx.toNat else .fault (.noSuchCell idx)

end Sys2Proof.Machine
end

