-- ==== Sys2Proof/Machine/Checksum.lean ====
section
/-! DEFINITION. The checksum commands (`41_crc8.md`): CRCINIT, CRCBYTE, CRCRD, CRCT. -/

namespace Sys2Proof.Machine

/-- CRCINIT (R104). -/
def execCrcinit (s : State) : Result := finish Res.initial (s.setCrcAcc Config.crcInit)

/-- CRCBYTE (R105): the result is the new `CRCACC`. -/
def execCrcbyte (v : Byte) (s : State) : Result :=
  finish { Res.initial with val := crcByte s.crcAcc v } (s.setCrcAcc (crcByte s.crcAcc v))

/-- CRCRD (R106). -/
def execCrcrd (s : State) : Result := finish { Res.initial with val := s.crcAcc } s

/-- CRCT (R107). -/
def execCrct (tsel : BitVec 2) (s : State) : Result :=
  withTelegram tsel s fun t => finish { Res.initial with val := telegramCrc t s } s

end Sys2Proof.Machine
end

