-- ==== Sys2Proof/Machine/Codec.lean ====
section
/-! DEFINITION. The codec commands (`42_codec.md`): FINALIZE, ENCODE, SEND, DECODE, VERIFY. -/

namespace Sys2Proof.Machine

/-- FINALIZE (R121). -/
def execFinalize (tsel : BitVec 2) (s : State) : Result :=
  withTelegram tsel s fun t => finish (finalizeSteps t Res.initial s).1 (finalizeSteps t Res.initial s).2

/-- ENCODE (R126). A buffer whose `arg_cnt` is above 20 has no behaviour, and is refused (R128, U2). -/
def execEncode (tsel : BitVec 2) (s : State) : Result :=
  withTelegram tsel s fun t =>
    if exceedsCapacity (s.field t .argCnt) then .refused (.encodeOversized (s.field t .argCnt))
    else transmit t Res.initial s

/-- SEND (R129): the steps of FINALIZE, then ENCODE from its `TxAvail()` test onward. -/
def execSend (tsel : BitVec 2) (s : State) : Result :=
  withTelegram tsel s fun t => transmit t (finalizeSteps t Res.initial s).1 (finalizeSteps t Res.initial s).2

/-- DECODE (R131): the destination is cleared before anything is asked of the transport. -/
def execDecode (tsel : BitVec 2) (s : State) : Result :=
  withTelegram tsel s fun t => receive t (s.clearBuffer t)

/-- VERIFY (R137): the result holds the computed checksum on both outcomes. -/
def execVerify (tsel : BitVec 2) (s : State) : Result :=
  withTelegram tsel s fun t =>
    if checksumAccepted (s.field t .crc8) (telegramCrc t s) then
      finish { Res.initial with val := telegramCrc t s, flag := true } s
    else raise .checksumFailure { Res.initial with val := telegramCrc t s } s

end Sys2Proof.Machine
end

