-- ==== Sys2Proof/Machine/Opcodes.lean ====
section
/-! DEFINITION. The telegram opcode constants (`30_encoding.md` R66 to R69), as bytes that the link delivers. The block
carries them and does not interpret them (R68): a byte that arrives while no DECODE asks for one waits in the transport
(`10_state.md` R23), where a later DECODE finds it. What a dispatcher makes of the value is software outside the block
(`00_scope.md` R3). See assumption 1. -/

namespace Sys2Proof.Machine

/-- `OP_FIRMWARE_VERSION` (R66, R68). -/
def execOpFirmwareVersion (s : State) : Result := .next (carry 0x01 s)

/-- `OP_HARDWARE_VERSION` (R66, R68). -/
def execOpHardwareVersion (s : State) : Result := .next (carry 0x02 s)

/-- `OP_PROTOCOL_VERSION` (R66, R68). -/
def execOpProtocolVersion (s : State) : Result := .next (carry 0x03 s)

/-- `OP_RESPONSE_MARKER` (R66, R68). -/
def execOpResponseMarker (s : State) : Result := .next (carry 0x04 s)

/-- `OP_HANGUP` (R66, R68). -/
def execOpHangup (s : State) : Result := .next (carry 0x05 s)

/-- `OP_RESEND` (R66, R68). -/
def execOpResend (s : State) : Result := .next (carry 0x06 s)

/-- `OP_SENSOR_ID_FIRST` (R66, R68). -/
def execOpSensorIdFirst (s : State) : Result := .next (carry 0x30 s)

/-- `OP_SENSOR_ID_NEXT` (R66, R68). -/
def execOpSensorIdNext (s : State) : Result := .next (carry 0x31 s)

/-- `OP_TEMPERATURE_FIRST` (R66, R68). -/
def execOpTemperatureFirst (s : State) : Result := .next (carry 0x32 s)

/-- `OP_TEMPERATURE_NEXT` (R66, R68). -/
def execOpTemperatureNext (s : State) : Result := .next (carry 0x33 s)

/-- `OP_TEMPERATURE_BY_ID` (R66, R68). -/
def execOpTemperatureById (s : State) : Result := .next (carry 0x34 s)

/-- `OP_DATA_BLOCK_FIRST` (R66, R68). -/
def execOpDataBlockFirst (s : State) : Result := .next (carry 0x35 s)

/-- `OP_DATA_BLOCK_NEXT` (R66, R68). -/
def execOpDataBlockNext (s : State) : Result := .next (carry 0x36 s)

/-- `OP_DATA_BLOCK_BY_ID` (R66, R68). -/
def execOpDataBlockById (s : State) : Result := .next (carry 0x37 s)

/-- `OP_RESOLUTION_GET_FIRST` (R66, R68). -/
def execOpResolutionGetFirst (s : State) : Result := .next (carry 0x38 s)

/-- `OP_RESOLUTION_GET_NEXT` (R66, R68). -/
def execOpResolutionGetNext (s : State) : Result := .next (carry 0x39 s)

/-- `OP_RESOLUTION_GET_BY_ID` (R66, R68). -/
def execOpResolutionGetById (s : State) : Result := .next (carry 0x3A s)

/-- `OP_RESOLUTION_SET_FIRST` (R66, R68). -/
def execOpResolutionSetFirst (s : State) : Result := .next (carry 0x3B s)

/-- `OP_RESOLUTION_SET_NEXT` (R66, R68). -/
def execOpResolutionSetNext (s : State) : Result := .next (carry 0x3C s)

/-- `OP_RESOLUTION_SET_BY_ID` (R66, R68). -/
def execOpResolutionSetById (s : State) : Result := .next (carry 0x3D s)

/-- `OP_BUS_RESET` (R66, R68). -/
def execOpBusReset (s : State) : Result := .next (carry 0x40 s)

/-- `OP_BUS_RESET_SEARCH` (R66, R68). -/
def execOpBusResetSearch (s : State) : Result := .next (carry 0x41 s)

/-- `OP_BUS_SELECT_ID` (R66, R68). -/
def execOpBusSelectId (s : State) : Result := .next (carry 0x42 s)

/-- `OP_PARASITIC_CONVERSION` (R66, R68). -/
def execOpParasiticConversion (s : State) : Result := .next (carry 0x43 s)

/-- `OP_NO_PARASITIC_CONVERSION` (R66, R68). -/
def execOpNoParasiticConversion (s : State) : Result := .next (carry 0x44 s)

/-- `OP_READ_SCRATCHPAD` (R66, R68). -/
def execOpReadScratchpad (s : State) : Result := .next (carry 0x45 s)

/-- `OP_RUN_VERBOSE` (R66, R68). -/
def execOpRunVerbose (s : State) : Result := .next (carry 0x46 s)

/-- `OP_RUN_SUMMARY` (R66, R68). -/
def execOpRunSummary (s : State) : Result := .next (carry 0x47 s)

/-- `OP_RUN_QUIET` (R66, R68). -/
def execOpRunQuiet (s : State) : Result := .next (carry 0x48 s)

/-- `OP_BUS_POWER_ON` (R66, R68). -/
def execOpBusPowerOn (s : State) : Result := .next (carry 0x4E s)

/-- `OP_BUS_POWER_OFF` (R66, R68). -/
def execOpBusPowerOff (s : State) : Result := .next (carry 0x4F s)

/-- `OP_END_OF_TABLE` (R66, R68, R69). -/
def execOpEndOfTable (s : State) : Result := .next (carry 0xFF s)

end Sys2Proof.Machine
end

