-- ==== Sys2Proof/Machine/Session.lean ====
section
/-! DEFINITION. The session register commands (`43_session.md`): RDSEQ, RDERR, WRERR. -/

namespace Sys2Proof.Machine

/-- RDSEQ (R151). -/
def execRdseq (s : State) : Result := finish { Res.initial with val := s.seq } s

/-- RDERR (R152): reading does not clear the slot. -/
def execRderr (s : State) : Result := finish { Res.initial with val := s.lastErr } s

/-- WRERR (R153): it records a value and signals nothing, so `RES.code` is 0. -/
def execWrerr (v : Byte) (s : State) : Result := finish Res.initial (s.setLastErr v)

end Sys2Proof.Machine
end

