-- ==== Sys2Proof/Machine/Telegram.lean ====
section
/-! DEFINITION. The telegram model commands (`40_telegram_model.md`): CLEAR, RDF, WRF. -/

namespace Sys2Proof.Machine

/-- CLEAR (R91). -/
def execClear (tsel : BitVec 2) (s : State) : Result :=
  withTelegram tsel s fun t => finish Res.initial (s.clearBuffer t)

/-- RDF (R92). -/
def execRdf (tsel : BitVec 2) (idx : BitVec 5) (s : State) : Result :=
  withIndex idx fun i => withTelegram tsel s fun t => finish { Res.initial with val := s.byte t i } s

/-- WRF (R93). -/
def execWrf (tsel : BitVec 2) (idx : BitVec 5) (v : Byte) (s : State) : Result :=
  withIndex idx fun i => withTelegram tsel s fun t => finish Res.initial (s.setByte t i v)

end Sys2Proof.Machine
end

