-- ==== Sys2Proof/Machine/Dispatch.lean ====
section
/-! DEFINITION. One arm per instruction: the meaning it runs. -/

namespace Sys2Proof.Machine

def exec (i : Instr) (s : State) : Host.Outcome State Fault Refusal :=
  match i with
  | .clear tsel => Sys2Proof.Machine.execClear tsel s
  | .rdf tsel idx => Sys2Proof.Machine.execRdf tsel idx s
  | .wrf tsel idx v => Sys2Proof.Machine.execWrf tsel idx v s
  | .crcinit => Sys2Proof.Machine.execCrcinit s
  | .crcbyte v => Sys2Proof.Machine.execCrcbyte v s
  | .crcrd => Sys2Proof.Machine.execCrcrd s
  | .crct tsel => Sys2Proof.Machine.execCrct tsel s
  | .finalize tsel => Sys2Proof.Machine.execFinalize tsel s
  | .encode tsel => Sys2Proof.Machine.execEncode tsel s
  | .send tsel => Sys2Proof.Machine.execSend tsel s
  | .decode tsel => Sys2Proof.Machine.execDecode tsel s
  | .verify tsel => Sys2Proof.Machine.execVerify tsel s
  | .rdseq => Sys2Proof.Machine.execRdseq s
  | .rderr => Sys2Proof.Machine.execRderr s
  | .wrerr v => Sys2Proof.Machine.execWrerr v s
  | .opFirmwareVersion => Sys2Proof.Machine.execOpFirmwareVersion s
  | .opHardwareVersion => Sys2Proof.Machine.execOpHardwareVersion s
  | .opProtocolVersion => Sys2Proof.Machine.execOpProtocolVersion s
  | .opResponseMarker => Sys2Proof.Machine.execOpResponseMarker s
  | .opHangup => Sys2Proof.Machine.execOpHangup s
  | .opResend => Sys2Proof.Machine.execOpResend s
  | .opSensorIdFirst => Sys2Proof.Machine.execOpSensorIdFirst s
  | .opSensorIdNext => Sys2Proof.Machine.execOpSensorIdNext s
  | .opTemperatureFirst => Sys2Proof.Machine.execOpTemperatureFirst s
  | .opTemperatureNext => Sys2Proof.Machine.execOpTemperatureNext s
  | .opTemperatureById => Sys2Proof.Machine.execOpTemperatureById s
  | .opDataBlockFirst => Sys2Proof.Machine.execOpDataBlockFirst s
  | .opDataBlockNext => Sys2Proof.Machine.execOpDataBlockNext s
  | .opDataBlockById => Sys2Proof.Machine.execOpDataBlockById s
  | .opResolutionGetFirst => Sys2Proof.Machine.execOpResolutionGetFirst s
  | .opResolutionGetNext => Sys2Proof.Machine.execOpResolutionGetNext s
  | .opResolutionGetById => Sys2Proof.Machine.execOpResolutionGetById s
  | .opResolutionSetFirst => Sys2Proof.Machine.execOpResolutionSetFirst s
  | .opResolutionSetNext => Sys2Proof.Machine.execOpResolutionSetNext s
  | .opResolutionSetById => Sys2Proof.Machine.execOpResolutionSetById s
  | .opBusReset => Sys2Proof.Machine.execOpBusReset s
  | .opBusResetSearch => Sys2Proof.Machine.execOpBusResetSearch s
  | .opBusSelectId => Sys2Proof.Machine.execOpBusSelectId s
  | .opParasiticConversion => Sys2Proof.Machine.execOpParasiticConversion s
  | .opNoParasiticConversion => Sys2Proof.Machine.execOpNoParasiticConversion s
  | .opReadScratchpad => Sys2Proof.Machine.execOpReadScratchpad s
  | .opRunVerbose => Sys2Proof.Machine.execOpRunVerbose s
  | .opRunSummary => Sys2Proof.Machine.execOpRunSummary s
  | .opRunQuiet => Sys2Proof.Machine.execOpRunQuiet s
  | .opBusPowerOn => Sys2Proof.Machine.execOpBusPowerOn s
  | .opBusPowerOff => Sys2Proof.Machine.execOpBusPowerOff s
  | .opEndOfTable => Sys2Proof.Machine.execOpEndOfTable s

end Sys2Proof.Machine
end

