-- ==== Sys2Proof/Machine/Step.lean ====
section
/-! DEFINITION. One step: what the outside presents next (`fetch`), run (`00_scope.md` R8: one command is one step). -/

namespace Sys2Proof.Machine

/-- The state in which the instruction of `nbits` bits with the value `w` is presented next: a 24-bit word on the
command port, or a byte on the receive port (`placeWord`). -/
def State.withFetchWord (s : State) (nbits w : Nat) : State := placeWord s nbits w

/-- One step of the machine. -/
def step (s : State) : Host.Outcome State Fault Refusal :=
  match fetch s with
  | .run i s' => exec i s'
  | .quiet s' => .next s'
  | .reserved why => .refused (.reservedWord why)

end Sys2Proof.Machine
end

