-- ==== Sys2Proof/Machine/Assembly.lean ====
section
/-! DEFINITION. The assembly notation of `30_encoding.md` R82 and the pseudo-commands of R84. Nothing of the machine
depends on this file. -/

namespace Sys2Proof.Machine

/-! ### Operands (R82) -/

/-- A telegram operand: `T0`, `T1`, `T2`, `T3`, or `TNULL`. -/
inductive TelegramName
  | t0 | t1 | t2 | t3 | tnull
  deriving DecidableEq, Repr

/-- The `tsel` of a telegram operand; `TNULL` assembles as 2. -/
def telegramName : TelegramName → BitVec 2
  | .t0 => 0
  | .t1 => 1
  | .t2 => 2
  | .t3 => 3
  | .tnull => 2

/-- A buffer byte operand, without its telegram: a field name, `args[j]`, or the raw form `[i]`. -/
inductive ByteName
  | field (f : Field)
  | arg (j : Nat)
  | raw (i : Nat)
  deriving DecidableEq, Repr

/-- The byte index of a buffer byte operand; `args[j]` is `[5 + j]`, and nothing names a byte beyond 24. -/
def byteName : ByteName → Option (BitVec 5)
  | .field f => some (BitVec.ofNat 5 f.index)
  | .arg j => if j < Config.argCap then some (BitVec.ofNat 5 (argIndex j)) else none
  | .raw i => if i < Config.frameMax then some (BitVec.ofNat 5 i) else none

/-- A byte value operand: a number from −128 to 255, a negative one as `u8` of it. -/
def byteValue (n : Int) : Option Byte := if -128 ≤ n ∧ n ≤ 255 then some (u8 n) else none

/-- A character operand: its ASCII code. -/
def charValue (c : Char) : Option Byte := if c.toNat < 128 then some (BitVec.ofNat 8 c.toNat) else none

/-! ### The notation of an instruction (R82) -/

/-- The name of a row of the opcode table. -/
def mnemonic : Instr → String
  | .clear _ => "CLEAR"
  | .rdf _ _ => "RDF"
  | .wrf _ _ _ => "WRF"
  | .crcinit => "CRCINIT"
  | .crcbyte _ => "CRCBYTE"
  | .crcrd => "CRCRD"
  | .crct _ => "CRCT"
  | .finalize _ => "FINALIZE"
  | .encode _ => "ENCODE"
  | .send _ => "SEND"
  | .decode _ => "DECODE"
  | .verify _ => "VERIFY"
  | .rdseq => "RDSEQ"
  | .rderr => "RDERR"
  | .wrerr _ => "WRERR"
  | .opFirmwareVersion => "OP_FIRMWARE_VERSION"
  | .opHardwareVersion => "OP_HARDWARE_VERSION"
  | .opProtocolVersion => "OP_PROTOCOL_VERSION"
  | .opResponseMarker => "OP_RESPONSE_MARKER"
  | .opHangup => "OP_HANGUP"
  | .opResend => "OP_RESEND"
  | .opSensorIdFirst => "OP_SENSOR_ID_FIRST"
  | .opSensorIdNext => "OP_SENSOR_ID_NEXT"
  | .opTemperatureFirst => "OP_TEMPERATURE_FIRST"
  | .opTemperatureNext => "OP_TEMPERATURE_NEXT"
  | .opTemperatureById => "OP_TEMPERATURE_BY_ID"
  | .opDataBlockFirst => "OP_DATA_BLOCK_FIRST"
  | .opDataBlockNext => "OP_DATA_BLOCK_NEXT"
  | .opDataBlockById => "OP_DATA_BLOCK_BY_ID"
  | .opResolutionGetFirst => "OP_RESOLUTION_GET_FIRST"
  | .opResolutionGetNext => "OP_RESOLUTION_GET_NEXT"
  | .opResolutionGetById => "OP_RESOLUTION_GET_BY_ID"
  | .opResolutionSetFirst => "OP_RESOLUTION_SET_FIRST"
  | .opResolutionSetNext => "OP_RESOLUTION_SET_NEXT"
  | .opResolutionSetById => "OP_RESOLUTION_SET_BY_ID"
  | .opBusReset => "OP_BUS_RESET"
  | .opBusResetSearch => "OP_BUS_RESET_SEARCH"
  | .opBusSelectId => "OP_BUS_SELECT_ID"
  | .opParasiticConversion => "OP_PARASITIC_CONVERSION"
  | .opNoParasiticConversion => "OP_NO_PARASITIC_CONVERSION"
  | .opReadScratchpad => "OP_READ_SCRATCHPAD"
  | .opRunVerbose => "OP_RUN_VERBOSE"
  | .opRunSummary => "OP_RUN_SUMMARY"
  | .opRunQuiet => "OP_RUN_QUIET"
  | .opBusPowerOn => "OP_BUS_POWER_ON"
  | .opBusPowerOff => "OP_BUS_POWER_OFF"
  | .opEndOfTable => "OP_END_OF_TABLE"

/-- `Tt`. -/
def showTelegram (tsel : BitVec 2) : String := "T" ++ toString tsel.toNat

/-- `Tt[i]`, the raw form. -/
def showByte (tsel : BitVec 2) (idx : BitVec 5) : String :=
  showTelegram tsel ++ "[" ++ toString idx.toNat ++ "]"

/-- One line of assembly: the mnemonic, then the operands separated by commas, values in decimal. A telegram opcode
has its name only, since it is no command. -/
def showInstr (i : Instr) : String :=
  match i with
  | .clear t | .crct t | .finalize t | .encode t | .send t | .decode t | .verify t =>
    mnemonic i ++ " " ++ showTelegram t
  | .rdf t idx => mnemonic i ++ " " ++ showByte t idx
  | .wrf t idx v => mnemonic i ++ " " ++ showByte t idx ++ ", " ++ toString v.toNat
  | .crcbyte v | .wrerr v => mnemonic i ++ " " ++ toString v.toNat
  | .crcinit | .crcrd | .rdseq | .rderr => mnemonic i
  | .opFirmwareVersion | .opHardwareVersion | .opProtocolVersion | .opResponseMarker | .opHangup | .opResend
  | .opSensorIdFirst | .opSensorIdNext | .opTemperatureFirst | .opTemperatureNext | .opTemperatureById
  | .opDataBlockFirst | .opDataBlockNext | .opDataBlockById | .opResolutionGetFirst | .opResolutionGetNext
  | .opResolutionGetById | .opResolutionSetFirst | .opResolutionSetNext | .opResolutionSetById | .opBusReset
  | .opBusResetSearch | .opBusSelectId | .opParasiticConversion | .opNoParasiticConversion | .opReadScratchpad
  | .opRunVerbose | .opRunSummary | .opRunQuiet | .opBusPowerOn | .opBusPowerOff | .opEndOfTable => mnemonic i

/-! ### Pseudo-commands (R84) -/

/-- The WRFs of `WRARGS`, from `args[j]` on. -/
def wrargsFrom (tsel : BitVec 2) : Nat → List Byte → List Instr
  | _, [] => []
  | j, b :: bs => .wrf tsel (BitVec.ofNat 5 (argIndex j)) b :: wrargsFrom tsel (j + 1) bs

/-- `WRARGS Tt, b0, …`, of at most 20 bytes: one WRF for each byte, then the WRF of `arg_cnt`. -/
def wrargs (tsel : BitVec 2) (bs : List Byte) : Option (List Instr) :=
  if bs.length ≤ Config.argCap then
    some (wrargsFrom tsel 0 bs
      ++ [.wrf tsel (BitVec.ofNat 5 Field.argCnt.index) (BitVec.ofNat 8 bs.length)])
  else none

/-- `CRCSTR b0, …`: CRCINIT, one CRCBYTE for each byte, CRCRD. -/
def crcstr (bs : List Byte) : List Instr := .crcinit :: (bs.map Instr.crcbyte ++ [.crcrd])

end Sys2Proof.Machine
end

