-- ==== Sys2Proof/Safety.lean ====
section
/-! DEFINITION. The terms that statements about runs use: the invariant, what a run is, and what an input does to the
two counters that whole-run rules speak of. -/

namespace Sys2Proof.Machine

/-! ### The invariant -/

/-- The status values that the TCU itself signals (`30_encoding.md` R64, `60_exceptions.md` R181, R187). -/
def signalledCodes : List Byte :=
  [0x00, statusCode .dataDropped, statusCode .transportFailure, statusCode .timeout, statusCode .checksumFailure,
    statusCode .nullReference]

/-- A presented result agrees with the recorded condition (R180): its code is one that the TCU signals, and, unless it
is 0, it is what `LASTERR` holds. -/
def resultAgrees (res : Option Res) (lastErr : Byte) : Bool :=
  match res with
  | none => true
  | some r => signalledCodes.contains r.code && (r.code == 0x00 || r.code == lastErr)

/-- The invariant that every step keeps: memory is in its canonical form, over cells only, and a presented result
agrees with the recorded condition. -/
def Inv (s : State) : Prop := Memory.wf s.mem = true ∧ resultAgrees s.res s.lastErr = true

/-! ### Runs -/

/-- `k` steps of the machine end in `s'`: no step on the way stops. A safe run is one of which this holds. -/
def Runs (k : Nat) (s s' : State) : Prop := Sys2Proof.core.run k s = .next s'

/-- Commands issued one after the other, each with its own answers of the environment, nothing else coming between. -/
def issue : List (Instr × Env) → State → Result
  | [], s => .next s
  | (i, env) :: rest, s =>
    match exec i { s with env := env } with
    | .next s' => issue rest s'
    | .fault r => .fault r
    | .refused r => .refused r

/-- The instruction that an input presents, if it presents one. -/
def Input.instr : Input → Option Instr
  | .command w _ => (decode (.command w)).toOption
  | .linkByte b => (decode (.telegramByte b)).toOption
  | .reset => none

/-- An instruction that finalizes: FINALIZE or SEND of a telegram that is present (`42_codec.md` R139). -/
def instrFinalizes : Instr → Bool
  | .finalize tsel => (telegram tsel).isSome
  | .send tsel => (telegram tsel).isSome
  | _ => false

/-- An input that finalizes. -/
def Input.finalizes (x : Input) : Bool :=
  match x.instr with
  | some i => instrFinalizes i
  | none => false

/-- The byte that an input feeds to the streamed checksum (`41_crc8.md` R105). -/
def Input.streamed (x : Input) : Option Byte :=
  match x.instr with
  | some (.crcbyte v) => some v
  | _ => none

/-- An input that starts the streamed checksum anew: CRCINIT (R104), or reset (R25). -/
def Input.restartsStream (x : Input) : Bool :=
  match x with
  | .reset => true
  | _ => x.instr == some .crcinit

/-! ### The command table -/

/-- One row of the command table (`30_encoding.md` R73, R76). -/
structure CommandRow where
  /-- The word with all operand fields zero. -/
  pattern : CmdWord
  /-- The bits that are fixed. -/
  mask : CmdWord
  /-- Whether `idx` must be at most 24 (formats F and W). -/
  boundsIndex : Bool
  /-- The command, from bits 14:13, 12:8 and 7:0. -/
  command : BitVec 2 → BitVec 5 → Byte → Instr

/-- The fifteen rows of R76, in its order. -/
def commandRows : List CommandRow :=
  [ ⟨0x100000, 0xFF9FFF, false, fun t _ _ => .clear t⟩,
    ⟨0x200000, 0xFF80FF, true, fun t i _ => .rdf t i⟩,
    ⟨0x300000, 0xFF8000, true, fun t i v => .wrf t i v⟩,
    ⟨0x400000, 0xFFFFFF, false, fun _ _ _ => .crcinit⟩,
    ⟨0x500000, 0xFFFF00, false, fun _ _ v => .crcbyte v⟩,
    ⟨0x600000, 0xFFFFFF, false, fun _ _ _ => .crcrd⟩,
    ⟨0x700000, 0xFF9FFF, false, fun t _ _ => .crct t⟩,
    ⟨0x800000, 0xFF9FFF, false, fun t _ _ => .finalize t⟩,
    ⟨0x900000, 0xFF9FFF, false, fun t _ _ => .encode t⟩,
    ⟨0xA00000, 0xFF9FFF, false, fun t _ _ => .send t⟩,
    ⟨0xB00000, 0xFF9FFF, false, fun t _ _ => .decode t⟩,
    ⟨0xC00000, 0xFF9FFF, false, fun t _ _ => .verify t⟩,
    ⟨0xD00000, 0xFFFFFF, false, fun _ _ _ => .rdseq⟩,
    ⟨0xE00000, 0xFFFFFF, false, fun _ _ _ => .rderr⟩,
    ⟨0xF00000, 0xFFFF00, false, fun _ _ v => .wrerr v⟩ ]

/-- A word is an instance of a row (R73): the fixed bits are the row's, and `idx` is in range where the row bounds
it. -/
def CommandRow.Matches (row : CommandRow) (w : CmdWord) : Prop :=
  w &&& row.mask = row.pattern ∧ (row.boundsIndex = true → (w.extractLsb' 8 5).toNat ≤ 24)

/-! ### What a command with an absent telegram leaves, and bytes of a buffer as a list -/

/-- The state that R90 gives: `LASTERR` and `RES.code` −8, and nothing else changed. -/
def rejected (s : State) : State :=
  { s with lastErr := 0xF8, res := some { code := 0xF8, flag := false, val := 0x00 } }

/-- Bytes `i` to `i + n − 1` of a buffer. -/
def bufferBytes (s : State) (t : Buf) (i n : Nat) : List Byte := (List.range n).map fun j => s.byte t (i + j)

/-- The buffer that an instruction may write: the one its `tsel` names, for the commands that R11 says write a
buffer. -/
def writtenBuffer : Instr → Option Buf
  | .clear tsel => telegram tsel
  | .wrf tsel _ _ => telegram tsel
  | .finalize tsel => telegram tsel
  | .send tsel => telegram tsel
  | .decode tsel => telegram tsel
  | _ => none

end Sys2Proof.Machine
end

