-- ==== Sys2Proof/Certificates/Slice0/Obligations.lean ====
section
/-! DEFINITION. The statements for the provers. Each docstring names the rule of spec/ that a statement formalises, or
the log entry of a choice of the model. -/

open Sys2Proof
open Sys2Proof.Machine

/-! ### Encodings -/

/-- R72, R73, R76, R77: a command word is read as the command of the row it matches, with bits 14:13, 12:8 and 7:0 as
its operands, and a word that matches no row is read as none. -/
def Obligations.CommandWordsDecodeByTheTable : Prop :=
  ∀ (w : CmdWord) (i : Instr),
    decode (.command w) = .ok i ↔
      ∃ row ∈ commandRows, row.Matches w ∧
        i = row.command (w.extractLsb' 13 2) (w.extractLsb' 8 5) (w.extractLsb' 0 8)

/-- R66, R72 to R77: the decoder reads back every well-formed instruction of the table, with every operand, from the
code unit that the encoder writes. -/
def Obligations.DecodeInvertsEncode : Prop :=
  ∀ i : Instr, WellFormed i → decode (encode i) = .ok i

/-- R77: every code unit is at most one instruction, and that instruction's encoding is the code unit itself. -/
def Obligations.EncodeInvertsDecode : Prop :=
  ∀ (u : CodeUnit) (i : Instr), decode u = .ok i → WellFormed i ∧ encode i = u

/-- R80: the step refuses exactly the words that match no row of the table. The index test comes before the telegram
test (R74): 0x307900 is reserved. -/
def Obligations.ReservedWordsAreRefused : Prop :=
  (∀ (s : State) (w : CmdWord) (env : Env) (rest : List Input), s.inputs = .command w env :: rest →
    ((∃ why, step s = .refused (.reservedWord why)) ↔ ¬ ∃ row ∈ commandRows, row.Matches w)) ∧
  decode (.command 0x307900) = .error .indexRange ∧
  (∀ w : CmdWord, w.extractLsb' 20 4 = 0 → decode (.command w) = .error .reservedCop)

/-- The worked decodings of `95_test_vectors.md` section 3.1, and three telegram opcodes of R66. -/
def Obligations.WrittenWordsDecode : Prop :=
  [ (CodeUnit.command 0x100000, Instr.clear 0), (.command 0x106000, .clear 3), (.command 0x202100, .rdf 1 1),
    (.command 0x201800, .rdf 0 24), (.command 0x3003F8, .wrf 0 3 0xF8), (.command 0x3028AB, .wrf 1 8 0xAB),
    (.command 0x400000, .crcinit), (.command 0x500031, .crcbyte 0x31), (.command 0x600000, .crcrd),
    (.command 0x700000, .crct 0), (.command 0x804000, .finalize 2), (.command 0x900000, .encode 0),
    (.command 0xA00000, .send 0), (.command 0xB02000, .decode 1), (.command 0xC06000, .verify 3),
    (.command 0xD00000, .rdseq), (.command 0xE00000, .rderr), (.command 0xF000FB, .wrerr 0xFB),
    (.telegramByte 0x01, .opFirmwareVersion), (.telegramByte 0x42, .opBusSelectId),
    (.telegramByte 0xFF, .opEndOfTable) ].all (fun p => (decode p.1).toOption == some p.2) = true

/-! ### The step, reset and the invariant -/

/-- R8, in the model's own terms (assumption 2): a presented command word runs as its command, in the state that has
taken the word and its environment, and a delivered telegram opcode as its row. Nothing else is done around it. -/
def Obligations.StepRunsTheDecodedInstruction : Prop :=
  ∀ (s : State) (i : Instr) (rest : List Input),
    (∀ (w : CmdWord) (env : Env), s.inputs = .command w env :: rest → decode (.command w) = .ok i →
      step s = exec i { s with inputs := rest, env := env }) ∧
    (∀ b : Byte, s.inputs = .linkByte b :: rest → decode (.telegramByte b) = .ok i →
      step s = exec i { s with inputs := rest })

/-- R23, R67, R68, as assumption 1 reads them (the model's choice): whatever its value, a byte that the link delivers
between commands waits at the end of `RX`, and the block's state is unchanged. -/
def Obligations.DeliveredByteWaitsInTheTransport : Prop :=
  ∀ (s : State) (b : Byte) (rest : List Input), s.inputs = .linkByte b :: rest →
    step s = .next { s with inputs := rest, rx := s.rx ++ [b], res := none }

/-- R25, R210: the state after reset, for every value of the open parameter `SEQ_RESET`, whose default is 0x00. -/
def Obligations.ResetStateIsTheTable : Prop :=
  (∀ (v : Byte) (t : Buf) (i : Nat), (State.resetWith v).byte t i = 0x00) ∧
  (∀ v : Byte, (State.resetWith v).seq = v ∧ (State.resetWith v).lastErr = 0x00 ∧
    (State.resetWith v).crcAcc = 0x00) ∧
  State.reset = State.resetWith 0x00

/-- R210, R211, R212, as a step between two commands (assumption 6): reset puts the block in the state of R25 whatever
it was in, and leaves the bytes that wait in `RX`. -/
def Obligations.ResetStepRestoresTheResetState : Prop :=
  ∀ (s : State) (rest : List Input), s.inputs = .reset :: rest →
    ∃ s', step s = .next s' ∧ (∀ (t : Buf) (i : Nat), s'.byte t i = 0x00) ∧ s'.seq = s.seqReset ∧
      s'.lastErr = 0x00 ∧ s'.crcAcc = 0x00 ∧ s'.rx = s.rx ∧ s'.inputs = rest ∧ s'.env = s.env ∧
      s'.seqReset = s.seqReset

/-- The invariant holds after reset, whatever `SEQ_RESET` is. -/
def Obligations.InvariantHoldsAfterReset : Prop :=
  ∀ v : Byte, Inv (State.resetWith v)

/-- Every step keeps the invariant: memory stays in its canonical form over the cells of R40, and a presented result
agrees with the recorded condition (R180), whose code is one that the TCU signals (R181, R187). -/
def Obligations.StepKeepsTheInvariant : Prop :=
  ∀ s s' : State, Inv s → step s = .next s' → Inv s'

/-- R80, R128, U1, U2: the only stops. No step faults, and a step refuses exactly a reserved command word, and an
ENCODE of a present telegram whose `arg_cnt` is above 20. -/
def Obligations.StepStopsExactly : Prop :=
  ∀ s : State, (∀ f, step s ≠ .fault f) ∧
    ∀ r, step s = .refused r ↔
      ∃ w env rest, s.inputs = .command w env :: rest ∧
        ((∃ why, decode (.command w) = .error why ∧ r = .reservedWord why) ∨
          ∃ tsel t, decode (.command w) = .ok (.encode tsel) ∧ telegram tsel = some t ∧
            20 < (s.field t .argCnt).toNat ∧ r = .encodeOversized (s.field t .argCnt))

/-- R49: whether an instruction has a step does not depend on the environment's answers. -/
def Obligations.EnvironmentNeverDecidesAStop : Prop :=
  ∀ (i : Instr) (s : State) (env : Env),
    (∃ s', exec i s = .next s') ↔ ∃ s', exec i { s with env := env } = .next s'

/-- Every well-formed instruction completes in every state, but for an ENCODE of a buffer whose `arg_cnt` is above 20
(R128). -/
def Obligations.WellFormedInstructionsComplete : Prop :=
  ∀ (i : Instr) (s : State), WellFormed i →
    (∀ tsel t, i = .encode tsel → telegram tsel = some t → (s.field t .argCnt).toNat ≤ 20) →
    ∃ s', exec i s = .next s'

/-! ### Operands -/

/-- R10, R74: 0 names `T[0]`, 1 names `T[1]`, and 2 and 3 name no buffer. -/
def Obligations.TelegramSelectorNamesTheBuffers : Prop :=
  telegram 0 = some .t0 ∧ telegram 1 = some .t1 ∧ telegram 2 = none ∧ telegram 3 = none

/-- R90: every command with a telegram operand raises NullReference when the telegram is absent, and changes nothing
else. -/
def Obligations.AbsentTelegramRaisesNullReference : Prop :=
  ∀ (s : State) (tsel : BitVec 2) (idx : BitVec 5) (v : Byte), 2 ≤ tsel.toNat → idx.toNat ≤ 24 →
    ∀ i ∈ [Instr.clear tsel, .rdf tsel idx, .wrf tsel idx v, .crct tsel, .finalize tsel, .encode tsel, .send tsel,
        .decode tsel, .verify tsel],
      exec i s = .next (rejected s)

/-- R64, R65, R6: the status value of each condition, read as a signed byte, and `u8` and `s8` are inverse. -/
def Obligations.StatusValuesAreTheTable : Prop :=
  s8 (statusCode .unspecified) = -1 ∧ s8 (statusCode .bufferOverflow) = -2 ∧ s8 (statusCode .timeout) = -3 ∧
  s8 (statusCode .checksumFailure) = -4 ∧ s8 (statusCode .unknownOpcode) = -5 ∧
  s8 (statusCode .invalidArgCount) = -6 ∧ s8 (statusCode .statusOutOfRange) = -7 ∧
  s8 (statusCode .nullReference) = -8 ∧ s8 (statusCode .protocolMismatch) = -9 ∧
  s8 (statusCode .dataDropped) = 1 ∧ s8 (statusCode .transportFailure) = -1 ∧
  (∀ v : Byte, u8 (s8 v) = v) ∧ (∀ n : Int, -128 ≤ n → n ≤ 127 → s8 (u8 n) = n)

/-! ### The telegram model commands -/

/-- R91: CLEAR sets the 25 bytes of its buffer to 0x00 and changes nothing else but the result. -/
def Obligations.ClearZeroesItsBuffer : Prop :=
  ∀ (s : State) (tsel : BitVec 2),
    (2 ≤ tsel.toNat → exec (.clear tsel) s = .next (rejected s)) ∧
    ∀ t, telegram tsel = some t →
      ∃ s', exec (.clear tsel) s = .next s' ∧
        (∀ i, i < 25 → s'.byte t i = 0x00) ∧
        (∀ a, ¬ (t.base ≤ a ∧ a < t.base + 25) → readByte s'.mem a = readByte s.mem a) ∧
        s' = { s with mem := s'.mem, res := some { code := 0x00, flag := false, val := 0x00 } }

/-- R92: RDF answers the addressed byte and changes nothing. -/
def Obligations.RdfAnswersTheByte : Prop :=
  ∀ (s : State) (tsel : BitVec 2) (idx : BitVec 5), idx.toNat ≤ 24 →
    (2 ≤ tsel.toNat → exec (.rdf tsel idx) s = .next (rejected s)) ∧
    ∀ t, telegram tsel = some t →
      exec (.rdf tsel idx) s =
        .next { s with res := some { code := 0x00, flag := false, val := readByte s.mem (t.base + idx.toNat) } }

/-- R93: WRF stores `V` in the addressed byte, whichever field it is, and changes nothing else but the result. -/
def Obligations.WrfStoresTheByte : Prop :=
  ∀ (s : State) (tsel : BitVec 2) (idx : BitVec 5) (v : Byte), idx.toNat ≤ 24 →
    (2 ≤ tsel.toNat → exec (.wrf tsel idx v) s = .next (rejected s)) ∧
    ∀ t, telegram tsel = some t →
      ∃ s', exec (.wrf tsel idx v) s = .next s' ∧
        readByte s'.mem (t.base + idx.toNat) = v ∧
        (∀ a, a ≠ t.base + idx.toNat → readByte s'.mem a = readByte s.mem a) ∧
        s' = { s with mem := s'.mem, res := some { code := 0x00, flag := false, val := 0x00 } }

/-! ### The checksum -/

/-- R100, R101, R102: one bit iteration, and its result bit by bit; a byte is eight of them, least significant bit
first; a sequence starts from 0x00 and takes its bytes in order. -/
def Obligations.ChecksumIsBitSerial : Prop :=
  (∀ (c : Byte) (d : Bool),
    crcBit c d = (if (c.getLsbD 0 ^^ d) = true then (c >>> 1) ^^^ 0x8C else c >>> 1) ∧
    (crcBit c d).getLsbD 7 = (c.getLsbD 0 ^^ d) ∧ (crcBit c d).getLsbD 6 = c.getLsbD 7 ∧
    (crcBit c d).getLsbD 5 = c.getLsbD 6 ∧ (crcBit c d).getLsbD 4 = c.getLsbD 5 ∧
    (crcBit c d).getLsbD 3 = (c.getLsbD 4 ^^ (c.getLsbD 0 ^^ d)) ∧
    (crcBit c d).getLsbD 2 = (c.getLsbD 3 ^^ (c.getLsbD 0 ^^ d)) ∧
    (crcBit c d).getLsbD 1 = c.getLsbD 2 ∧ (crcBit c d).getLsbD 0 = c.getLsbD 1) ∧
  (∀ c b : Byte, crcByte c b =
    crcBit (crcBit (crcBit (crcBit (crcBit (crcBit (crcBit (crcBit c (b.getLsbD 0)) (b.getLsbD 1)) (b.getLsbD 2))
      (b.getLsbD 3)) (b.getLsbD 4)) (b.getLsbD 5)) (b.getLsbD 6)) (b.getLsbD 7)) ∧
  crc8 [] = 0x00 ∧ (∀ (bs : List Byte) (b : Byte), crc8 (bs ++ [b]) = crcByte (crc8 bs) b)

/-- The laws (a) to (h) of the checksum, which R103 marks as the spec's own, derived from R100 to R102. -/
def Obligations.ChecksumLaws : Prop :=
  -- (a) byte-wise form
  (∀ c b : Byte, crcByte c b =
    (List.range 8).foldl (fun x _ => if x.getLsbD 0 then (x >>> 1) ^^^ 0x8C else x >>> 1) (c ^^^ b)) ∧
  -- (b) table form; the table is a permutation
  (∀ c b : Byte, crcByte c b = crc8 [c ^^^ b]) ∧
  (∀ v v' : Byte, crc8 [v] = crc8 [v'] → v = v') ∧
  -- (c) composition
  (∀ xs ys : List Byte, crc8 (xs ++ ys) = ys.foldl crcByte (crc8 xs)) ∧
  -- (d) zero residue
  (∀ xs : List Byte, crc8 (xs ++ [crc8 xs]) = 0x00) ∧
  -- (e) linearity
  (∀ xs ys : List Byte, xs.length = ys.length →
    crc8 (List.zipWith (fun x y => x ^^^ y) xs ys) = crc8 xs ^^^ crc8 ys) ∧
  -- (f) leading zeros
  (∀ (n : Nat) (xs : List Byte), crc8 (List.replicate n 0x00 ++ xs) = crc8 xs) ∧
  -- (g) single byte
  (∀ b : Byte, crc8 [b] = 0x00 ↔ b = 0x00) ∧
  -- (h) single-bit sensitivity
  (∀ (xs ys : List Byte) (b : Byte) (k : Nat), k < 8 →
    crc8 (xs ++ (b ^^^ (1#8 <<< k)) :: ys) ≠ crc8 (xs ++ b :: ys))

/-- R104, R105, R106: the three commands of the streamed checksum. -/
def Obligations.StreamedChecksumCommands : Prop :=
  ∀ (s : State) (v : Byte),
    exec .crcinit s = .next { s with crcAcc := 0x00, res := some { code := 0x00, flag := false, val := 0x00 } } ∧
    exec (.crcbyte v) s =
      .next { s with crcAcc := crcByte s.crcAcc v,
                     res := some { code := 0x00, flag := false, val := crcByte s.crcAcc v } } ∧
    exec .crcrd s = .next { s with res := some { code := 0x00, flag := false, val := s.crcAcc } }

/-- R107: CRCT answers the checksum of the first `min(arg_cnt, 20)` argument bytes and changes nothing. -/
def Obligations.CrctAnswersTheArgumentChecksum : Prop :=
  ∀ (s : State) (tsel : BitVec 2),
    (2 ≤ tsel.toNat → exec (.crct tsel) s = .next (rejected s)) ∧
    ∀ t, telegram tsel = some t →
      exec (.crct tsel) s =
        .next { s with res := some { code := 0x00, flag := false,
                                     val := crc8 (bufferBytes s t 5 (min (s.byte t 4).toNat 20)) } }

/-- After CRCINIT (or a reset), `CRCACC` is the checksum of the bytes fed since, whatever else is issued or delivered
in between: the streaming law of R108, which the spec marks as derived from R102, R104, R105 and R18. -/
def Obligations.StreamedChecksumIgnoresOtherCommands : Prop :=
  ∀ (s s' : State) (first : Input) (rest : List Input),
    s.inputs.take (rest.length + 1) = first :: rest → first.restartsStream = true →
    (∀ x ∈ rest, x.restartsStream = false) → Runs (rest.length + 1) s s' →
    s'.crcAcc = crc8 (rest.filterMap Input.streamed)

/-! ### The codec -/

/-- R121 to R124: FINALIZE clamps, then computes the checksum of the clamped length, then assigns the sequence number
and increments the counter modulo 256; the opcode, the arguments, the other buffer and everything else are unchanged.
-/
def Obligations.FinalizeClampsChecksumsAndNumbers : Prop :=
  ∀ (s : State) (tsel : BitVec 2),
    (2 ≤ tsel.toNat → exec (.finalize tsel) s = .next (rejected s)) ∧
    ∀ t, telegram tsel = some t →
      ∃ s', exec (.finalize tsel) s = .next s' ∧
        (s'.byte t 4).toNat = min (s.byte t 4).toNat 20 ∧
        s'.byte t 3 = (if 20 < (s.byte t 4).toNat then 0x01 else s.byte t 3) ∧
        s'.byte t 1 = (if s.byte t 4 = 0x00 then 0x00 else crc8 (bufferBytes s t 5 (min (s.byte t 4).toNat 20))) ∧
        s'.byte t 2 = s.seq ∧
        (∀ a, ¬ (t.base + 1 ≤ a ∧ a ≤ t.base + 4) → readByte s'.mem a = readByte s.mem a) ∧
        s' = { s with mem := s'.mem, seq := s.seq + 1,
                      lastErr := if 20 < (s.byte t 4).toNat then 0x01 else s.lastErr,
                      res := some { code := if 20 < (s.byte t 4).toNat then 0x01 else 0x00, flag := true,
                                    val := 0x00 } }

/-- R125: a second FINALIZE of the same buffer warns of nothing, computes the same checksum over the same arguments,
and takes the next number. -/
def Obligations.SecondFinalizeTakesANewNumber : Prop :=
  ∀ (s : State) (tsel : BitVec 2) (t : Buf), telegram tsel = some t →
    ∃ s1 s2, exec (.finalize tsel) s = .next s1 ∧ exec (.finalize tsel) s1 = .next s2 ∧
      s2.res = some { code := 0x00, flag := true, val := 0x00 } ∧ s2.lastErr = s1.lastErr ∧
      s2.byte t 2 = s.seq + 1 ∧ s2.seq = s.seq + 2 ∧
      (∀ a, a ≠ t.base + 2 → readByte s2.mem a = readByte s1.mem a)

/-- R126, R127: ENCODE of a telegram with at most 20 arguments appends its `5 + arg_cnt` bytes to `TX` and changes
nothing else; a transport that is unavailable, or whose write fails, raises TransportFailure with nothing, or a prefix
of the frame, in `TX`. -/
def Obligations.EncodeAppendsTheFrame : Prop :=
  ∀ (s : State) (tsel : BitVec 2),
    (2 ≤ tsel.toNat → exec (.encode tsel) s = .next (rejected s)) ∧
    ∀ t, telegram tsel = some t → (s.byte t 4).toNat ≤ 20 →
      (s.env.txAvail = true → s.env.txWrite = .ok →
        exec (.encode tsel) s =
          .next { s with tx := s.tx ++ bufferBytes s t 0 (5 + (s.byte t 4).toNat),
                         res := some { code := 0x00, flag := false, val := 0x00 } }) ∧
      (s.env.txAvail = false →
        exec (.encode tsel) s =
          .next { s with lastErr := 0xFF, res := some { code := 0xFF, flag := false, val := 0x00 } }) ∧
      (∀ k, s.env.txAvail = true → s.env.txWrite = .fail k →
        exec (.encode tsel) s =
          .next { s with tx := s.tx ++ (bufferBytes s t 0 (5 + (s.byte t 4).toNat)).take k, lastErr := 0xFF,
                         res := some { code := 0xFF, flag := false, val := 0x00 } })

/-- R228, R128: ENCODE of a present telegram whose `arg_cnt` is above 20 is refused, and SEND of it completes. -/
def Obligations.OversizedEncodeIsRefusedAndSendIsSafe : Prop :=
  ∀ (s : State) (tsel : BitVec 2) (t : Buf), telegram tsel = some t → 20 < (s.byte t 4).toNat →
    exec (.encode tsel) s = .refused (.encodeOversized (s.byte t 4)) ∧ ∃ s', exec (.send tsel) s = .next s'

/-- R129: SEND finalizes and then appends the finalized frame to `TX`; when the transport fails the finalization
stands. -/
def Obligations.SendFinalizesAndTransmits : Prop :=
  ∀ (s : State) (tsel : BitVec 2),
    (2 ≤ tsel.toNat → exec (.send tsel) s = .next (rejected s)) ∧
    ∀ t, telegram tsel = some t →
      ∃ s', exec (.send tsel) s = .next s' ∧
        (s'.byte t 4).toNat = min (s.byte t 4).toNat 20 ∧
        s'.byte t 3 = (if 20 < (s.byte t 4).toNat then 0x01 else s.byte t 3) ∧
        s'.byte t 1 = (if s.byte t 4 = 0x00 then 0x00 else crc8 (bufferBytes s t 5 (min (s.byte t 4).toNat 20))) ∧
        s'.byte t 2 = s.seq ∧
        (∀ a, ¬ (t.base + 1 ≤ a ∧ a ≤ t.base + 4) → readByte s'.mem a = readByte s.mem a) ∧
        (s.env.txAvail = true → s.env.txWrite = .ok →
          s' = { s with mem := s'.mem, seq := s.seq + 1,
                        tx := s.tx ++ bufferBytes s' t 0 (5 + (s'.byte t 4).toNat),
                        lastErr := if 20 < (s.byte t 4).toNat then 0x01 else s.lastErr,
                        res := some { code := if 20 < (s.byte t 4).toNat then 0x01 else 0x00, flag := true,
                                      val := 0x00 } }) ∧
        (s.env.txAvail = false →
          s' = { s with mem := s'.mem, seq := s.seq + 1, lastErr := 0xFF,
                        res := some { code := 0xFF, flag := true, val := 0x00 } }) ∧
        (∀ k, s.env.txAvail = true → s.env.txWrite = .fail k →
          s' = { s with mem := s'.mem, seq := s.seq + 1, lastErr := 0xFF,
                        tx := s.tx ++ (bufferBytes s' t 0 (5 + (s'.byte t 4).toNat)).take k,
                        res := some { code := 0xFF, flag := true, val := 0x00 } })

/-- R130, which the spec marks as derived from R121 and R126: SEND is exactly FINALIZE followed by ENCODE on the same
buffer: the same state and `TX`, and the result of the ENCODE, except that the flag is FINALIZE's and that its warning
survives if ENCODE raises nothing. -/
def Obligations.SendIsFinalizeThenEncode : Prop :=
  ∀ (s : State) (tsel : BitVec 2) (t : Buf), telegram tsel = some t →
    ∃ f e rf re, exec (.finalize tsel) s = .next f ∧ exec (.encode tsel) f = .next e ∧
      f.res = some rf ∧ e.res = some re ∧
      exec (.send tsel) s =
        .next { e with res := some { code := if re.code = 0x00 then rf.code else re.code, flag := rf.flag,
                                     val := re.val } }

/-- R131, R132, R133: DECODE of a frame that is at the front of `RX` takes 5 bytes and then exactly `min(arg_cnt,
20)`, stores them, leaves the rest of `RX`, and warns when the header announces more than 20. A header that announces
no arguments asks for no second answer of the environment. -/
def Obligations.DecodeDeliversTheFrame : Prop :=
  ∀ (s : State) (tsel : BitVec 2) (t : Buf) (h0 h1 h2 h3 h4 : Byte) (args rest : List Byte),
    telegram tsel = some t → s.env.rxAvail = true → s.env.header = .arrive → (0 < h4.toNat → s.env.args = .arrive) →
    args.length = min h4.toNat 20 → s.rx = [h0, h1, h2, h3, h4] ++ args ++ rest →
    ∃ s', exec (.decode tsel) s = .next s' ∧
      bufferBytes s' t 0 25 =
        [h0, h1, h2, h3, BitVec.ofNat 8 (min h4.toNat 20)] ++ args ++ List.replicate (20 - args.length) 0x00 ∧
      (∀ a, ¬ (t.base ≤ a ∧ a < t.base + 25) → readByte s'.mem a = readByte s.mem a) ∧
      s' = { s with mem := s'.mem, rx := rest,
                    lastErr := if 20 < h4.toNat then 0x01 else s.lastErr,
                    res := some { code := if 20 < h4.toNat then 0x01 else 0x00, flag := false, val := 0x00 } }

/-- R134, R48: a DECODE that fails leaves its buffer all zero and records TransportFailure or Timeout; an unavailable
transport costs `RX` nothing, and a read that times out or fails after `k` bytes, fewer than it asked for, loses them.
-/
def Obligations.FailedDecodeLeavesAnEmptyTelegram : Prop :=
  ∀ (s : State) (tsel : BitVec 2) (t : Buf) (code : Byte) (left : List Byte), telegram tsel = some t →
    ((s.env.rxAvail = false ∧ code = 0xFF ∧ left = s.rx) ∨
      (s.env.rxAvail = true ∧
        ((∃ k, k < 5 ∧ s.env.header = .timeout k ∧ code = 0xFD ∧ left = s.rx.drop k) ∨
          (∃ k, k < 5 ∧ s.env.header = .fail k ∧ code = 0xFF ∧ left = s.rx.drop k) ∨
          ∃ h0 h1 h2 h3 h4 later k, s.env.header = .arrive ∧ s.rx = [h0, h1, h2, h3, h4] ++ later ∧
            k < min h4.toNat 20 ∧ left = later.drop k ∧
            ((s.env.args = .timeout k ∧ code = 0xFD) ∨ (s.env.args = .fail k ∧ code = 0xFF))))) →
    ∃ s', exec (.decode tsel) s = .next s' ∧ (∀ i, i < 25 → s'.byte t i = 0x00) ∧
      (∀ a, ¬ (t.base ≤ a ∧ a < t.base + 25) → readByte s'.mem a = readByte s.mem a) ∧
      s' = { s with mem := s'.mem, rx := left, lastErr := code,
                    res := some { code := code, flag := false, val := 0x00 } }

/-- The model's choice, assumption 7: under the answer `arrive` a read that finds fewer bytes in `RX` than it asks for
times out and loses them all. The rest is R134: Timeout, and an empty telegram, whether the stream ends in the header,
in the arguments, or before the first byte. -/
def Obligations.ShortStreamTimesOut : Prop :=
  ∀ (s : State) (tsel : BitVec 2) (t : Buf), telegram tsel = some t → s.env.rxAvail = true →
    s.env.header = .arrive →
    (s.rx.length < 5 ∨
      ∃ h0 h1 h2 h3 h4 later, s.rx = [h0, h1, h2, h3, h4] ++ later ∧ later.length < min h4.toNat 20 ∧
        s.env.args = .arrive) →
    ∃ s', exec (.decode tsel) s = .next s' ∧ (∀ i, i < 25 → s'.byte t i = 0x00) ∧
      (∀ a, ¬ (t.base ≤ a ∧ a < t.base + 25) → readByte s'.mem a = readByte s.mem a) ∧
      s' = { s with mem := s'.mem, rx := [], lastErr := 0xFD,
                    res := some { code := 0xFD, flag := false, val := 0x00 } }

/-- R136, which the spec marks as derived from R126 and R131: encode of decode reproduces a well-formed frame,
whatever its checksum byte; and decode of a delivered encode reproduces the telegram, with 0x00 beyond its arguments.
-/
def Obligations.FramesRoundTrip : Prop :=
  (∀ (s : State) (tsel : BitVec 2) (t : Buf) (h0 h1 h2 h3 h4 : Byte) (args rest : List Byte) (env : Env),
    telegram tsel = some t → s.env.rxAvail = true → s.env.header = .arrive → s.env.args = .arrive →
    h4.toNat ≤ 20 → args.length = h4.toNat → s.rx = [h0, h1, h2, h3, h4] ++ args ++ rest →
    env.txAvail = true → env.txWrite = .ok →
    ∃ d e, exec (.decode tsel) s = .next d ∧ exec (.encode tsel) { d with env := env } = .next e ∧
      e.tx = s.tx ++ ([h0, h1, h2, h3, h4] ++ args) ∧ e.rx = rest) ∧
  (∀ (a b : State) (asel bsel : BitVec 2) (ta tb : Buf) (rest : List Byte),
    telegram asel = some ta → telegram bsel = some tb → (a.byte ta 4).toNat ≤ 20 →
    a.env.txAvail = true → a.env.txWrite = .ok →
    ∃ sent bs, exec (.encode asel) a = .next sent ∧ sent.tx = a.tx ++ bs ∧
      (b.env.rxAvail = true → b.env.header = .arrive → b.env.args = .arrive → b.rx = bs ++ rest →
        ∃ got, exec (.decode bsel) b = .next got ∧ got.rx = rest ∧
          (∀ i, i < 5 + (a.byte ta 4).toNat → got.byte tb i = a.byte ta i) ∧
          (∀ i, 5 + (a.byte ta 4).toNat ≤ i → i < 25 → got.byte tb i = 0x00)))

/-- R137, R138: VERIFY accepts a telegram whose stored checksum is the sentinel or the computed one, raises
ChecksumFailure otherwise, answers the computed checksum either way, and changes nothing else. -/
def Obligations.VerifyJudgesTheChecksum : Prop :=
  ∀ (s : State) (tsel : BitVec 2),
    (2 ≤ tsel.toNat → exec (.verify tsel) s = .next (rejected s)) ∧
    ∀ (t : Buf) (c : Byte), telegram tsel = some t → c = crc8 (bufferBytes s t 5 (min (s.byte t 4).toNat 20)) →
      ((s.byte t 1 = 0x00 ∨ s.byte t 1 = c) →
        exec (.verify tsel) s = .next { s with res := some { code := 0x00, flag := true, val := c } }) ∧
      (s.byte t 1 ≠ 0x00 → s.byte t 1 ≠ c →
        exec (.verify tsel) s =
          .next { s with lastErr := 0xFC, res := some { code := 0xFC, flag := false, val := c } })

/-- R12: after FINALIZE, SEND or DECODE of a present telegram its `arg_cnt` is at most 20, and all three end. -/
def Obligations.ArgCountIsBoundedAfterTheCodec : Prop :=
  ∀ (s : State) (tsel : BitVec 2) (t : Buf), telegram tsel = some t →
    ∀ i ∈ [Instr.finalize tsel, .send tsel, .decode tsel],
      ∃ s', exec i s = .next s' ∧ (s'.byte t 4).toNat ≤ 20

/-- R139, which the spec marks as derived from R121, R124, R129 and R16: over any run without a reset, `SEQ` advances
by the number of commands that finalize, modulo 256, and by nothing else; and the command that finalizes after `n`
others assigns the first number plus `n`. -/
def Obligations.SequenceNumbersAreConsecutive : Prop :=
  (∀ (k : Nat) (s s' : State), Runs k s s' → Input.reset ∉ s.inputs.take k →
    s'.seq = s.seq + BitVec.ofNat 8 ((s.inputs.take k).countP Input.finalizes)) ∧
  (∀ (k : Nat) (s s' : State) (w : CmdWord) (env : Env) (tsel : BitVec 2) (t : Buf), Runs (k + 1) s s' →
    Input.reset ∉ s.inputs.take k → s.inputs[k]? = some (.command w env) →
    (decode (.command w) = .ok (.finalize tsel) ∨ decode (.command w) = .ok (.send tsel)) →
    telegram tsel = some t →
    s'.byte t 2 = s.seq + BitVec.ofNat 8 ((s.inputs.take k).countP Input.finalizes))

/-! ### The session register commands -/

/-- R151, R152, R153: RDSEQ and RDERR answer a register and change nothing; WRERR stores any pattern and signals
nothing. -/
def Obligations.SessionRegisterCommands : Prop :=
  ∀ (s : State) (v : Byte),
    exec .rdseq s = .next { s with res := some { code := 0x00, flag := false, val := s.seq } } ∧
    exec .rderr s = .next { s with res := some { code := 0x00, flag := false, val := s.lastErr } } ∧
    exec (.wrerr v) s = .next { s with lastErr := v, res := some { code := 0x00, flag := false, val := 0x00 } }

/-- R17: `LASTERR` changes only when a command signals a condition, and then to its code, by WRERR, to its operand,
and by reset; in particular a command that signals nothing leaves it. -/
def Obligations.LastErrorKeepsTheLastCondition : Prop :=
  ∀ s s' : State, step s = .next s' →
    (∃ r, s'.res = some r ∧ r.code ≠ 0x00 ∧ s'.lastErr = r.code) ∨
    (∃ x rest v, s.inputs = x :: rest ∧ x.instr = some (.wrerr v) ∧ s'.lastErr = v) ∨
    (∃ rest, s.inputs = .reset :: rest) ∨
    (s'.lastErr = s.lastErr ∧ ∀ r, s'.res = some r → r.code = 0x00)

/-! ### Telegram opcodes -/

/-- R66, R68, as assumption 1 reads them (the model's choice): each of the 32 constants, `opFirmwareVersion` to
`opEndOfTable`, when the link delivers it, is put at the end of `RX` with the value of its row, and nothing of the
block changes. -/
def Obligations.OpcodeConstantsAreCarried : Prop :=
  ∀ (i : Instr) (b : Byte) (s : State), encode i = .telegramByte b →
    exec i s = .next { s with rx := s.rx ++ [b], res := none }

/-- R68: FINALIZE, ENCODE, SEND, DECODE and VERIFY do the same thing whatever the stored opcode byte is: the same
result, registers and other bytes, and a frame that differs in its first byte alone. -/
def Obligations.StoredOpcodeIsNotInterpreted : Prop :=
  ∀ (s s1 : State) (tsel : BitVec 2) (t : Buf) (b : Byte), telegram tsel = some t →
    ∀ i ∈ [Instr.finalize tsel, .encode tsel, .send tsel, .decode tsel, .verify tsel], exec i s = .next s1 →
      ∃ s2 f1 f2, exec i (s.setByte t 0 b) = .next s2 ∧
        (∀ a, a ≠ t.base → readByte s2.mem a = readByte s1.mem a) ∧
        s1.tx = s.tx ++ f1 ∧ s2.tx = s.tx ++ f2 ∧ f2.length = f1.length ∧ f2.drop 1 = f1.drop 1 ∧
        s2 = { s1 with mem := s2.mem, tx := s2.tx }

/-- R68, R69: a DECODE does the same thing whatever the received opcode byte is, 0xFF included: the telegrams differ
in byte 0 alone. -/
def Obligations.ReceivedOpcodeIsNotInterpreted : Prop :=
  ∀ (s s1 : State) (tsel : BitVec 2) (t : Buf) (o o' : Byte) (later : List Byte), telegram tsel = some t →
    s.rx = o :: later → exec (.decode tsel) s = .next s1 →
    ∃ s2, exec (.decode tsel) { s with rx := o' :: later } = .next s2 ∧
      (∀ a, a ≠ t.base → readByte s2.mem a = readByte s1.mem a) ∧
      (s2.rx = s1.rx ∨ (s1.rx = o :: later ∧ s2.rx = o' :: later)) ∧
      s2 = { s1 with mem := s2.mem, rx := s2.rx }

/-! ### What an instruction leaves alone -/

/-- R11: memory changes only in the buffer that the instruction may write, and then only in its 25 bytes; the other
buffer keeps every byte. -/
def Obligations.OnlyTheNamedBufferIsWritten : Prop :=
  ∀ (i : Instr) (s s' : State), exec i s = .next s' →
    ∀ a, (∀ t, writtenBuffer i = some t → ¬ (t.base ≤ a ∧ a < t.base + 25)) → readByte s'.mem a = readByte s.mem a

/-- R41: `TX` is only appended to, and only by ENCODE and SEND; a command takes from `RX` only at its front, and only
DECODE does, never more than 25 bytes. -/
def Obligations.StreamsAreReachedOnlyByTheCodec : Prop :=
  ∀ (w : CmdWord) (i : Instr) (s s' : State), decode (.command w) = .ok i → exec i s = .next s' →
    (∃ bs, s'.tx = s.tx ++ bs ∧ bs.length ≤ 25) ∧ (∃ bs, s.rx = bs ++ s'.rx ∧ bs.length ≤ 25) ∧
    ((∀ tsel, i ≠ .encode tsel ∧ i ≠ .send tsel) → s'.tx = s.tx) ∧ ((∀ tsel, i ≠ .decode tsel) → s'.rx = s.rx)

/-! ### Pseudo-commands -/

/-- R84: CRCSTR is `n + 2` commands whose last answers the checksum of its bytes; WRARGS, of at most 20 bytes, is `n +
1` commands that store its bytes in `args[0..n)` and `n` in `arg_cnt`. -/
def Obligations.PseudoCommandsDoTheirWork : Prop :=
  (∀ (s : State) (bs : List Byte),
    (crcstr bs).length = bs.length + 2 ∧
    issue ((crcstr bs).map fun i => (i, s.env)) s =
      .next { s with crcAcc := crc8 bs, res := some { code := 0x00, flag := false, val := crc8 bs } }) ∧
  (∀ (s : State) (tsel : BitVec 2) (t : Buf) (bs : List Byte), telegram tsel = some t → bs.length ≤ 20 →
    ∃ is s', wrargs tsel bs = some is ∧ is.length = bs.length + 1 ∧
      issue (is.map fun i => (i, s.env)) s = .next s' ∧
      bufferBytes s' t 5 bs.length = bs ∧ (s'.byte t 4).toNat = bs.length ∧
      (∀ a, ¬ (t.base + 4 ≤ a ∧ a < t.base + 5 + bs.length) → readByte s'.mem a = readByte s.mem a) ∧
      s' = { s with mem := s'.mem, res := some { code := 0x00, flag := false, val := 0x00 } })
end

