-- ==== Sys2Proof/Laws/Checksum.lean ====
section
/-! SUPPORT. The algebra of the checksum (`41_crc8.md` R100, R101): a bit iteration, and a byte, act on the exclusive
or of two registers and two inputs as on each apart. -/

namespace Sys2Proof.Machine

theorem poly_cancel (z : Byte) : 140#8 ^^^ (140#8 ^^^ z) = z := by
  rw [← BitVec.xor_assoc]
  simp

/-- One bit iteration is linear over exclusive or. -/
theorem crcBit_xor (x y : Byte) (d e : Bool) : crcBit (x ^^^ y) (d ^^ e) = crcBit x d ^^^ crcBit y e := by
  simp only [crcBit, BitVec.getLsbD_xor, BitVec.ushiftRight_xor_distrib]
  cases x.getLsbD 0 <;> cases y.getLsbD 0 <;> cases d <;> cases e <;> simp <;>
    first | ac_rfl | (ac_nf; exact (poly_cancel _).symm)

theorem crcBits_xor (is : List Nat) (x y a b : Byte) :
    is.foldl (fun c i => crcBit c ((a ^^^ b).getLsbD i)) (x ^^^ y) =
      is.foldl (fun c i => crcBit c (a.getLsbD i)) x ^^^ is.foldl (fun c i => crcBit c (b.getLsbD i)) y := by
  induction is generalizing x y with
  | nil => rfl
  | cons i is ih =>
    simp only [List.foldl_cons, BitVec.getLsbD_xor, crcBit_xor] at *
    exact ih _ _

/-- One byte is linear over exclusive or. -/
theorem crcByte_xor (x y a b : Byte) : crcByte (x ^^^ y) (a ^^^ b) = crcByte x a ^^^ crcByte y b :=
  crcBits_xor _ _ _ _ _

/-- The loop of R102 over a list that continues. -/
theorem crcFrom_append (c : Byte) (xs ys : List Byte) : crcFrom c (xs ++ ys) = crcFrom (crcFrom c xs) ys :=
  List.foldl_append

end Sys2Proof.Machine
end

