-- ==== Sys2Proof/Laws/Decode.lean ====
section
/-! SUPPORT. The parts of a command word: a word is five fields (`30_encoding.md` R72), each format sets some of them,
and a mask keeps some of them. -/

namespace Sys2Proof

/-- A word from its five fields: bits 23:20, 19:15, 14:13, 12:8 and 7:0. -/
def fieldsWord (c : BitVec 4) (z : BitVec 5) (t : BitVec 2) (i : BitVec 5) (v : Byte) : CmdWord :=
  c ++ z ++ t ++ i ++ v

/-- Bits 19:15, which every format wants zero. -/
def zeroField (w : CmdWord) : BitVec 5 := w.extractLsb' 15 5

/-! ### The fields of a word -/

@[simp] theorem copField_fieldsWord (c : BitVec 4) (z : BitVec 5) (t : BitVec 2) (i : BitVec 5) (v : Byte) :
    copField (fieldsWord c z t i v) = c := by
  ext j hj
  simp only [copField, fieldsWord, BitVec.getElem_extractLsb', BitVec.getLsbD_append]
  interval_cases j <;> simp [BitVec.getLsbD_eq_getElem]

@[simp] theorem zeroField_fieldsWord (c : BitVec 4) (z : BitVec 5) (t : BitVec 2) (i : BitVec 5) (v : Byte) :
    zeroField (fieldsWord c z t i v) = z := by
  ext j hj
  simp only [zeroField, fieldsWord, BitVec.getElem_extractLsb', BitVec.getLsbD_append]
  interval_cases j <;> simp [BitVec.getLsbD_eq_getElem]

@[simp] theorem tselField_fieldsWord (c : BitVec 4) (z : BitVec 5) (t : BitVec 2) (i : BitVec 5) (v : Byte) :
    tselField (fieldsWord c z t i v) = t := by
  ext j hj
  simp only [tselField, fieldsWord, BitVec.getElem_extractLsb', BitVec.getLsbD_append]
  interval_cases j <;> simp [BitVec.getLsbD_eq_getElem]

@[simp] theorem idxField_fieldsWord (c : BitVec 4) (z : BitVec 5) (t : BitVec 2) (i : BitVec 5) (v : Byte) :
    idxField (fieldsWord c z t i v) = i := by
  ext j hj
  simp only [idxField, fieldsWord, BitVec.getElem_extractLsb', BitVec.getLsbD_append]
  interval_cases j <;> simp [BitVec.getLsbD_eq_getElem]

@[simp] theorem valueField_fieldsWord (c : BitVec 4) (z : BitVec 5) (t : BitVec 2) (i : BitVec 5) (v : Byte) :
    valueField (fieldsWord c z t i v) = v := by
  ext j hj
  simp only [valueField, fieldsWord, BitVec.getElem_extractLsb', BitVec.getLsbD_append]
  interval_cases j <;> simp [BitVec.getLsbD_eq_getElem]

/-- A word is its five fields. -/
theorem fieldsWord_fields (w : CmdWord) :
    fieldsWord (copField w) (zeroField w) (tselField w) (idxField w) (valueField w) = w := by
  ext j hj
  simp only [fieldsWord, copField, zeroField, tselField, idxField, valueField, ← BitVec.getLsbD_eq_getElem,
    BitVec.getLsbD_append, BitVec.getLsbD_extractLsb']
  interval_cases j <;> simp

/-- Words are equal when their fields are. -/
theorem fieldsWord_inj {c c' : BitVec 4} {z z' : BitVec 5} {t t' : BitVec 2} {i i' : BitVec 5} {v v' : Byte} :
    fieldsWord c z t i v = fieldsWord c' z' t' i' v' ↔ c = c' ∧ z = z' ∧ t = t' ∧ i = i' ∧ v = v' := by
  refine ⟨fun h => ⟨?_, ?_, ?_, ?_, ?_⟩, ?_⟩
  · simpa using congrArg copField h
  · simpa using congrArg zeroField h
  · simpa using congrArg tselField h
  · simpa using congrArg idxField h
  · simpa using congrArg valueField h
  · rintro ⟨rfl, rfl, rfl, rfl, rfl⟩
    rfl

theorem fieldsWord_and (c c' : BitVec 4) (z z' : BitVec 5) (t t' : BitVec 2) (i i' : BitVec 5) (v v' : Byte) :
    fieldsWord c z t i v &&& fieldsWord c' z' t' i' v' =
      fieldsWord (c &&& c') (z &&& z') (t &&& t') (i &&& i') (v &&& v') := by
  ext j hj
  simp only [fieldsWord, ← BitVec.getLsbD_eq_getElem, BitVec.getLsbD_and, BitVec.getLsbD_append]
  interval_cases j <;> simp

/-! ### The masks and the formats, field by field -/

theorem maskN_fields : (0xFFFFFF : CmdWord) = fieldsWord 15 31 3 31 255 := by decide

theorem maskT_fields : (0xFF9FFF : CmdWord) = fieldsWord 15 31 0 31 255 := by decide

theorem maskF_fields : (0xFF80FF : CmdWord) = fieldsWord 15 31 0 0 255 := by decide

theorem maskW_fields : (0xFF8000 : CmdWord) = fieldsWord 15 31 0 0 0 := by decide

theorem maskI_fields : (0xFFFF00 : CmdWord) = fieldsWord 15 31 3 31 0 := by decide

theorem shifted_cop (c : BitVec 4) : c.setWidth 24 <<< 20 = fieldsWord c 0 0 0 0 := by
  revert c
  decide

theorem wordN_fields (c : BitVec 4) : wordN c = fieldsWord c 0 0 0 0 := by
  revert c
  decide

theorem wordT_fields (c : BitVec 4) (t : BitVec 2) : wordT c t = fieldsWord c 0 t 0 0 := by
  revert c t
  decide

theorem wordF_fields (c : BitVec 4) (t : BitVec 2) (i : BitVec 5) : wordF c t i = fieldsWord c 0 t i 0 := rfl

theorem wordW_fields (c : BitVec 4) (t : BitVec 2) (i : BitVec 5) (v : Byte) :
    wordW c t i v = fieldsWord c 0 t i v := rfl

theorem wordI_fields (c : BitVec 4) (v : Byte) : wordI c v = fieldsWord c 0 0 0 v := by
  simp only [wordI, fieldsWord]
  ext j hj
  simp only [← BitVec.getLsbD_eq_getElem, BitVec.getLsbD_append]
  interval_cases j <;> simp

@[simp] theorem and_fifteen (c : BitVec 4) : c &&& 15 = c := by
  revert c
  decide

@[simp] theorem and_thirtyOne (z : BitVec 5) : z &&& 31 = z := by
  revert z
  decide

@[simp] theorem and_three (t : BitVec 2) : t &&& 3 = t := by
  revert t
  decide

@[simp] theorem and_twoFiftyFive (v : Byte) : v &&& 255 = v := by
  revert v
  decide

/-- What the mask of each format keeps of a word: the fields that the format wants fixed. -/
theorem masked_fields (f : Format) (c : BitVec 4) (z : BitVec 5) (t : BitVec 2) (i : BitVec 5) (v : Byte) :
    fieldsWord c z t i v &&& formatMask f =
      match f with
      | .N => fieldsWord c z t i v
      | .T => fieldsWord c z 0 i v
      | .F => fieldsWord c z 0 0 v
      | .W => fieldsWord c z 0 0 0
      | .I => fieldsWord c z t i 0 := by
  cases f <;> simp only [formatMask, maskN_fields, maskT_fields, maskF_fields, maskW_fields, maskI_fields,
    fieldsWord_and, and_fifteen, and_thirtyOne, and_three, and_twoFiftyFive] <;> simp

/-- The must-be-zero test of R77 (2), format by format: which fields have to be zero. -/
theorem mustBeZero_fields (f : Format) (c : BitVec 4) (z : BitVec 5) (t : BitVec 2) (i : BitVec 5) (v : Byte) :
    fieldsWord c z t i v &&& formatMask f = c.setWidth 24 <<< 20 ↔
      match f with
      | .N => z = 0 ∧ t = 0 ∧ i = 0 ∧ v = 0
      | .T => z = 0 ∧ i = 0 ∧ v = 0
      | .F => z = 0 ∧ v = 0
      | .W => z = 0
      | .I => z = 0 ∧ t = 0 ∧ i = 0 := by
  rw [masked_fields, shifted_cop]
  cases f <;> simp [fieldsWord_inj]

/-- The index test is the bound of R74. -/
theorem indexInBuffer_iff (idx : BitVec 5) : indexInBuffer idx = true ↔ idx.toNat ≤ 24 := by
  revert idx
  decide

end Sys2Proof
end

