-- ==== Sys2Proof/Laws/State.lean ====
section
/-! SUPPORT. One lemma for each field of the state under each update, so that no proof unfolds a record update. -/

namespace Sys2Proof.Machine

/-! ### `State.setMem` -/

@[simp] theorem setMem_mem (s : State) (m : Memory) :
    (s.setMem m).mem = m := rfl

@[simp] theorem setMem_seq (s : State) (m : Memory) :
    (s.setMem m).seq = s.seq := rfl

@[simp] theorem setMem_lastErr (s : State) (m : Memory) :
    (s.setMem m).lastErr = s.lastErr := rfl

@[simp] theorem setMem_crcAcc (s : State) (m : Memory) :
    (s.setMem m).crcAcc = s.crcAcc := rfl

@[simp] theorem setMem_res (s : State) (m : Memory) :
    (s.setMem m).res = s.res := rfl

@[simp] theorem setMem_tx (s : State) (m : Memory) :
    (s.setMem m).tx = s.tx := rfl

@[simp] theorem setMem_rx (s : State) (m : Memory) :
    (s.setMem m).rx = s.rx := rfl

@[simp] theorem setMem_env (s : State) (m : Memory) :
    (s.setMem m).env = s.env := rfl

@[simp] theorem setMem_inputs (s : State) (m : Memory) :
    (s.setMem m).inputs = s.inputs := rfl

@[simp] theorem setMem_seqReset (s : State) (m : Memory) :
    (s.setMem m).seqReset = s.seqReset := rfl

/-! ### `State.setSeq` -/

@[simp] theorem setSeq_mem (s : State) (v : Byte) :
    (s.setSeq v).mem = s.mem := rfl

@[simp] theorem setSeq_seq (s : State) (v : Byte) :
    (s.setSeq v).seq = v := rfl

@[simp] theorem setSeq_lastErr (s : State) (v : Byte) :
    (s.setSeq v).lastErr = s.lastErr := rfl

@[simp] theorem setSeq_crcAcc (s : State) (v : Byte) :
    (s.setSeq v).crcAcc = s.crcAcc := rfl

@[simp] theorem setSeq_res (s : State) (v : Byte) :
    (s.setSeq v).res = s.res := rfl

@[simp] theorem setSeq_tx (s : State) (v : Byte) :
    (s.setSeq v).tx = s.tx := rfl

@[simp] theorem setSeq_rx (s : State) (v : Byte) :
    (s.setSeq v).rx = s.rx := rfl

@[simp] theorem setSeq_env (s : State) (v : Byte) :
    (s.setSeq v).env = s.env := rfl

@[simp] theorem setSeq_inputs (s : State) (v : Byte) :
    (s.setSeq v).inputs = s.inputs := rfl

@[simp] theorem setSeq_seqReset (s : State) (v : Byte) :
    (s.setSeq v).seqReset = s.seqReset := rfl

/-! ### `State.setLastErr` -/

@[simp] theorem setLastErr_mem (s : State) (v : Byte) :
    (s.setLastErr v).mem = s.mem := rfl

@[simp] theorem setLastErr_seq (s : State) (v : Byte) :
    (s.setLastErr v).seq = s.seq := rfl

@[simp] theorem setLastErr_lastErr (s : State) (v : Byte) :
    (s.setLastErr v).lastErr = v := rfl

@[simp] theorem setLastErr_crcAcc (s : State) (v : Byte) :
    (s.setLastErr v).crcAcc = s.crcAcc := rfl

@[simp] theorem setLastErr_res (s : State) (v : Byte) :
    (s.setLastErr v).res = s.res := rfl

@[simp] theorem setLastErr_tx (s : State) (v : Byte) :
    (s.setLastErr v).tx = s.tx := rfl

@[simp] theorem setLastErr_rx (s : State) (v : Byte) :
    (s.setLastErr v).rx = s.rx := rfl

@[simp] theorem setLastErr_env (s : State) (v : Byte) :
    (s.setLastErr v).env = s.env := rfl

@[simp] theorem setLastErr_inputs (s : State) (v : Byte) :
    (s.setLastErr v).inputs = s.inputs := rfl

@[simp] theorem setLastErr_seqReset (s : State) (v : Byte) :
    (s.setLastErr v).seqReset = s.seqReset := rfl

/-! ### `State.setCrcAcc` -/

@[simp] theorem setCrcAcc_mem (s : State) (v : Byte) :
    (s.setCrcAcc v).mem = s.mem := rfl

@[simp] theorem setCrcAcc_seq (s : State) (v : Byte) :
    (s.setCrcAcc v).seq = s.seq := rfl

@[simp] theorem setCrcAcc_lastErr (s : State) (v : Byte) :
    (s.setCrcAcc v).lastErr = s.lastErr := rfl

@[simp] theorem setCrcAcc_crcAcc (s : State) (v : Byte) :
    (s.setCrcAcc v).crcAcc = v := rfl

@[simp] theorem setCrcAcc_res (s : State) (v : Byte) :
    (s.setCrcAcc v).res = s.res := rfl

@[simp] theorem setCrcAcc_tx (s : State) (v : Byte) :
    (s.setCrcAcc v).tx = s.tx := rfl

@[simp] theorem setCrcAcc_rx (s : State) (v : Byte) :
    (s.setCrcAcc v).rx = s.rx := rfl

@[simp] theorem setCrcAcc_env (s : State) (v : Byte) :
    (s.setCrcAcc v).env = s.env := rfl

@[simp] theorem setCrcAcc_inputs (s : State) (v : Byte) :
    (s.setCrcAcc v).inputs = s.inputs := rfl

@[simp] theorem setCrcAcc_seqReset (s : State) (v : Byte) :
    (s.setCrcAcc v).seqReset = s.seqReset := rfl

/-! ### `State.setRes` -/

@[simp] theorem setRes_mem (s : State) (r : Option Res) :
    (s.setRes r).mem = s.mem := rfl

@[simp] theorem setRes_seq (s : State) (r : Option Res) :
    (s.setRes r).seq = s.seq := rfl

@[simp] theorem setRes_lastErr (s : State) (r : Option Res) :
    (s.setRes r).lastErr = s.lastErr := rfl

@[simp] theorem setRes_crcAcc (s : State) (r : Option Res) :
    (s.setRes r).crcAcc = s.crcAcc := rfl

@[simp] theorem setRes_res (s : State) (r : Option Res) :
    (s.setRes r).res = r := rfl

@[simp] theorem setRes_tx (s : State) (r : Option Res) :
    (s.setRes r).tx = s.tx := rfl

@[simp] theorem setRes_rx (s : State) (r : Option Res) :
    (s.setRes r).rx = s.rx := rfl

@[simp] theorem setRes_env (s : State) (r : Option Res) :
    (s.setRes r).env = s.env := rfl

@[simp] theorem setRes_inputs (s : State) (r : Option Res) :
    (s.setRes r).inputs = s.inputs := rfl

@[simp] theorem setRes_seqReset (s : State) (r : Option Res) :
    (s.setRes r).seqReset = s.seqReset := rfl

/-! ### `State.setTx` -/

@[simp] theorem setTx_mem (s : State) (bs : List Byte) :
    (s.setTx bs).mem = s.mem := rfl

@[simp] theorem setTx_seq (s : State) (bs : List Byte) :
    (s.setTx bs).seq = s.seq := rfl

@[simp] theorem setTx_lastErr (s : State) (bs : List Byte) :
    (s.setTx bs).lastErr = s.lastErr := rfl

@[simp] theorem setTx_crcAcc (s : State) (bs : List Byte) :
    (s.setTx bs).crcAcc = s.crcAcc := rfl

@[simp] theorem setTx_res (s : State) (bs : List Byte) :
    (s.setTx bs).res = s.res := rfl

@[simp] theorem setTx_tx (s : State) (bs : List Byte) :
    (s.setTx bs).tx = bs := rfl

@[simp] theorem setTx_rx (s : State) (bs : List Byte) :
    (s.setTx bs).rx = s.rx := rfl

@[simp] theorem setTx_env (s : State) (bs : List Byte) :
    (s.setTx bs).env = s.env := rfl

@[simp] theorem setTx_inputs (s : State) (bs : List Byte) :
    (s.setTx bs).inputs = s.inputs := rfl

@[simp] theorem setTx_seqReset (s : State) (bs : List Byte) :
    (s.setTx bs).seqReset = s.seqReset := rfl

/-! ### `State.setRx` -/

@[simp] theorem setRx_mem (s : State) (bs : List Byte) :
    (s.setRx bs).mem = s.mem := rfl

@[simp] theorem setRx_seq (s : State) (bs : List Byte) :
    (s.setRx bs).seq = s.seq := rfl

@[simp] theorem setRx_lastErr (s : State) (bs : List Byte) :
    (s.setRx bs).lastErr = s.lastErr := rfl

@[simp] theorem setRx_crcAcc (s : State) (bs : List Byte) :
    (s.setRx bs).crcAcc = s.crcAcc := rfl

@[simp] theorem setRx_res (s : State) (bs : List Byte) :
    (s.setRx bs).res = s.res := rfl

@[simp] theorem setRx_tx (s : State) (bs : List Byte) :
    (s.setRx bs).tx = s.tx := rfl

@[simp] theorem setRx_rx (s : State) (bs : List Byte) :
    (s.setRx bs).rx = bs := rfl

@[simp] theorem setRx_env (s : State) (bs : List Byte) :
    (s.setRx bs).env = s.env := rfl

@[simp] theorem setRx_inputs (s : State) (bs : List Byte) :
    (s.setRx bs).inputs = s.inputs := rfl

@[simp] theorem setRx_seqReset (s : State) (bs : List Byte) :
    (s.setRx bs).seqReset = s.seqReset := rfl

/-! ### `State.setByte` -/

@[simp] theorem setByte_mem (s : State) (t : Buf) (i : Nat) (b : Byte) :
    (s.setByte t i b).mem = writeByte s.mem (t.base + i) b := rfl

@[simp] theorem setByte_seq (s : State) (t : Buf) (i : Nat) (b : Byte) :
    (s.setByte t i b).seq = s.seq := rfl

@[simp] theorem setByte_lastErr (s : State) (t : Buf) (i : Nat) (b : Byte) :
    (s.setByte t i b).lastErr = s.lastErr := rfl

@[simp] theorem setByte_crcAcc (s : State) (t : Buf) (i : Nat) (b : Byte) :
    (s.setByte t i b).crcAcc = s.crcAcc := rfl

@[simp] theorem setByte_res (s : State) (t : Buf) (i : Nat) (b : Byte) :
    (s.setByte t i b).res = s.res := rfl

@[simp] theorem setByte_tx (s : State) (t : Buf) (i : Nat) (b : Byte) :
    (s.setByte t i b).tx = s.tx := rfl

@[simp] theorem setByte_rx (s : State) (t : Buf) (i : Nat) (b : Byte) :
    (s.setByte t i b).rx = s.rx := rfl

@[simp] theorem setByte_env (s : State) (t : Buf) (i : Nat) (b : Byte) :
    (s.setByte t i b).env = s.env := rfl

@[simp] theorem setByte_inputs (s : State) (t : Buf) (i : Nat) (b : Byte) :
    (s.setByte t i b).inputs = s.inputs := rfl

@[simp] theorem setByte_seqReset (s : State) (t : Buf) (i : Nat) (b : Byte) :
    (s.setByte t i b).seqReset = s.seqReset := rfl

/-! ### `State.setField` -/

@[simp] theorem setField_mem (s : State) (t : Buf) (f : Field) (b : Byte) :
    (s.setField t f b).mem = writeByte s.mem (t.base + f.index) b := rfl

@[simp] theorem setField_seq (s : State) (t : Buf) (f : Field) (b : Byte) :
    (s.setField t f b).seq = s.seq := rfl

@[simp] theorem setField_lastErr (s : State) (t : Buf) (f : Field) (b : Byte) :
    (s.setField t f b).lastErr = s.lastErr := rfl

@[simp] theorem setField_crcAcc (s : State) (t : Buf) (f : Field) (b : Byte) :
    (s.setField t f b).crcAcc = s.crcAcc := rfl

@[simp] theorem setField_res (s : State) (t : Buf) (f : Field) (b : Byte) :
    (s.setField t f b).res = s.res := rfl

@[simp] theorem setField_tx (s : State) (t : Buf) (f : Field) (b : Byte) :
    (s.setField t f b).tx = s.tx := rfl

@[simp] theorem setField_rx (s : State) (t : Buf) (f : Field) (b : Byte) :
    (s.setField t f b).rx = s.rx := rfl

@[simp] theorem setField_env (s : State) (t : Buf) (f : Field) (b : Byte) :
    (s.setField t f b).env = s.env := rfl

@[simp] theorem setField_inputs (s : State) (t : Buf) (f : Field) (b : Byte) :
    (s.setField t f b).inputs = s.inputs := rfl

@[simp] theorem setField_seqReset (s : State) (t : Buf) (f : Field) (b : Byte) :
    (s.setField t f b).seqReset = s.seqReset := rfl

/-! ### `State.setBytes` -/

@[simp] theorem setBytes_mem (s : State) (t : Buf) (bs : List Byte) :
    (s.setBytes t bs).mem = writeBytes s.mem t.base bs := rfl

@[simp] theorem setBytes_seq (s : State) (t : Buf) (bs : List Byte) :
    (s.setBytes t bs).seq = s.seq := rfl

@[simp] theorem setBytes_lastErr (s : State) (t : Buf) (bs : List Byte) :
    (s.setBytes t bs).lastErr = s.lastErr := rfl

@[simp] theorem setBytes_crcAcc (s : State) (t : Buf) (bs : List Byte) :
    (s.setBytes t bs).crcAcc = s.crcAcc := rfl

@[simp] theorem setBytes_res (s : State) (t : Buf) (bs : List Byte) :
    (s.setBytes t bs).res = s.res := rfl

@[simp] theorem setBytes_tx (s : State) (t : Buf) (bs : List Byte) :
    (s.setBytes t bs).tx = s.tx := rfl

@[simp] theorem setBytes_rx (s : State) (t : Buf) (bs : List Byte) :
    (s.setBytes t bs).rx = s.rx := rfl

@[simp] theorem setBytes_env (s : State) (t : Buf) (bs : List Byte) :
    (s.setBytes t bs).env = s.env := rfl

@[simp] theorem setBytes_inputs (s : State) (t : Buf) (bs : List Byte) :
    (s.setBytes t bs).inputs = s.inputs := rfl

@[simp] theorem setBytes_seqReset (s : State) (t : Buf) (bs : List Byte) :
    (s.setBytes t bs).seqReset = s.seqReset := rfl

/-! ### `State.clearBuffer` -/

@[simp] theorem clearBuffer_mem (s : State) (t : Buf) :
    (s.clearBuffer t).mem = writeBytes s.mem t.base (List.replicate Config.frameMax 0x00) := setBytes_mem s t _

@[simp] theorem clearBuffer_seq (s : State) (t : Buf) :
    (s.clearBuffer t).seq = s.seq := setBytes_seq s t _

@[simp] theorem clearBuffer_lastErr (s : State) (t : Buf) :
    (s.clearBuffer t).lastErr = s.lastErr := setBytes_lastErr s t _

@[simp] theorem clearBuffer_crcAcc (s : State) (t : Buf) :
    (s.clearBuffer t).crcAcc = s.crcAcc := setBytes_crcAcc s t _

@[simp] theorem clearBuffer_res (s : State) (t : Buf) :
    (s.clearBuffer t).res = s.res := setBytes_res s t _

@[simp] theorem clearBuffer_tx (s : State) (t : Buf) :
    (s.clearBuffer t).tx = s.tx := setBytes_tx s t _

@[simp] theorem clearBuffer_rx (s : State) (t : Buf) :
    (s.clearBuffer t).rx = s.rx := setBytes_rx s t _

@[simp] theorem clearBuffer_env (s : State) (t : Buf) :
    (s.clearBuffer t).env = s.env := setBytes_env s t _

@[simp] theorem clearBuffer_inputs (s : State) (t : Buf) :
    (s.clearBuffer t).inputs = s.inputs := setBytes_inputs s t _

@[simp] theorem clearBuffer_seqReset (s : State) (t : Buf) :
    (s.clearBuffer t).seqReset = s.seqReset := setBytes_seqReset s t _

/-! ### `record` -/

@[simp] theorem record_mem (s : State) (c : Condition) :
    (record c s).mem = s.mem := rfl

@[simp] theorem record_seq (s : State) (c : Condition) :
    (record c s).seq = s.seq := rfl

@[simp] theorem record_lastErr (s : State) (c : Condition) :
    (record c s).lastErr = statusCode c := rfl

@[simp] theorem record_crcAcc (s : State) (c : Condition) :
    (record c s).crcAcc = s.crcAcc := rfl

@[simp] theorem record_res (s : State) (c : Condition) :
    (record c s).res = s.res := rfl

@[simp] theorem record_tx (s : State) (c : Condition) :
    (record c s).tx = s.tx := rfl

@[simp] theorem record_rx (s : State) (c : Condition) :
    (record c s).rx = s.rx := rfl

@[simp] theorem record_env (s : State) (c : Condition) :
    (record c s).env = s.env := rfl

@[simp] theorem record_inputs (s : State) (c : Condition) :
    (record c s).inputs = s.inputs := rfl

@[simp] theorem record_seqReset (s : State) (c : Condition) :
    (record c s).seqReset = s.seqReset := rfl

/-! ### `carry` -/

@[simp] theorem carry_mem (s : State) (b : Byte) :
    (carry b s).mem = s.mem := rfl

@[simp] theorem carry_seq (s : State) (b : Byte) :
    (carry b s).seq = s.seq := rfl

@[simp] theorem carry_lastErr (s : State) (b : Byte) :
    (carry b s).lastErr = s.lastErr := rfl

@[simp] theorem carry_crcAcc (s : State) (b : Byte) :
    (carry b s).crcAcc = s.crcAcc := rfl

@[simp] theorem carry_res (s : State) (b : Byte) :
    (carry b s).res = none := rfl

@[simp] theorem carry_tx (s : State) (b : Byte) :
    (carry b s).tx = s.tx := rfl

@[simp] theorem carry_rx (s : State) (b : Byte) :
    (carry b s).rx = s.rx ++ [b] := rfl

@[simp] theorem carry_env (s : State) (b : Byte) :
    (carry b s).env = s.env := rfl

@[simp] theorem carry_inputs (s : State) (b : Byte) :
    (carry b s).inputs = s.inputs := rfl

@[simp] theorem carry_seqReset (s : State) (b : Byte) :
    (carry b s).seqReset = s.seqReset := rfl

/-! ### `resetBlock` -/

@[simp] theorem resetBlock_mem (s : State) :
    (resetBlock s).mem = [] := rfl

@[simp] theorem resetBlock_seq (s : State) :
    (resetBlock s).seq = s.seqReset := rfl

@[simp] theorem resetBlock_lastErr (s : State) :
    (resetBlock s).lastErr = 0x00 := rfl

@[simp] theorem resetBlock_crcAcc (s : State) :
    (resetBlock s).crcAcc = Config.crcInit := rfl

@[simp] theorem resetBlock_res (s : State) :
    (resetBlock s).res = none := rfl

@[simp] theorem resetBlock_tx (s : State) :
    (resetBlock s).tx = [] := rfl

@[simp] theorem resetBlock_rx (s : State) :
    (resetBlock s).rx = s.rx := rfl

@[simp] theorem resetBlock_env (s : State) :
    (resetBlock s).env = s.env := rfl

@[simp] theorem resetBlock_inputs (s : State) :
    (resetBlock s).inputs = s.inputs := rfl

@[simp] theorem resetBlock_seqReset (s : State) :
    (resetBlock s).seqReset = s.seqReset := rfl

/-! ### Bytes of a buffer under the updates that leave memory -/

@[simp] theorem setSeq_byte (s : State) (v : Byte) (t : Buf) (i : Nat) :
    (s.setSeq v).byte t i = s.byte t i := rfl

@[simp] theorem setSeq_field (s : State) (v : Byte) (t : Buf) (f : Field) :
    (s.setSeq v).field t f = s.field t f := rfl

@[simp] theorem setSeq_argBytes (s : State) (v : Byte) (t : Buf) (n : Nat) :
    (s.setSeq v).argBytes t n = s.argBytes t n := rfl

@[simp] theorem setLastErr_byte (s : State) (v : Byte) (t : Buf) (i : Nat) :
    (s.setLastErr v).byte t i = s.byte t i := rfl

@[simp] theorem setLastErr_field (s : State) (v : Byte) (t : Buf) (f : Field) :
    (s.setLastErr v).field t f = s.field t f := rfl

@[simp] theorem setLastErr_argBytes (s : State) (v : Byte) (t : Buf) (n : Nat) :
    (s.setLastErr v).argBytes t n = s.argBytes t n := rfl

@[simp] theorem setCrcAcc_byte (s : State) (v : Byte) (t : Buf) (i : Nat) :
    (s.setCrcAcc v).byte t i = s.byte t i := rfl

@[simp] theorem setCrcAcc_field (s : State) (v : Byte) (t : Buf) (f : Field) :
    (s.setCrcAcc v).field t f = s.field t f := rfl

@[simp] theorem setCrcAcc_argBytes (s : State) (v : Byte) (t : Buf) (n : Nat) :
    (s.setCrcAcc v).argBytes t n = s.argBytes t n := rfl

@[simp] theorem setRes_byte (s : State) (r : Option Res) (t : Buf) (i : Nat) :
    (s.setRes r).byte t i = s.byte t i := rfl

@[simp] theorem setRes_field (s : State) (r : Option Res) (t : Buf) (f : Field) :
    (s.setRes r).field t f = s.field t f := rfl

@[simp] theorem setRes_argBytes (s : State) (r : Option Res) (t : Buf) (n : Nat) :
    (s.setRes r).argBytes t n = s.argBytes t n := rfl

@[simp] theorem setTx_byte (s : State) (bs : List Byte) (t : Buf) (i : Nat) :
    (s.setTx bs).byte t i = s.byte t i := rfl

@[simp] theorem setTx_field (s : State) (bs : List Byte) (t : Buf) (f : Field) :
    (s.setTx bs).field t f = s.field t f := rfl

@[simp] theorem setTx_argBytes (s : State) (bs : List Byte) (t : Buf) (n : Nat) :
    (s.setTx bs).argBytes t n = s.argBytes t n := rfl

@[simp] theorem setRx_byte (s : State) (bs : List Byte) (t : Buf) (i : Nat) :
    (s.setRx bs).byte t i = s.byte t i := rfl

@[simp] theorem setRx_field (s : State) (bs : List Byte) (t : Buf) (f : Field) :
    (s.setRx bs).field t f = s.field t f := rfl

@[simp] theorem setRx_argBytes (s : State) (bs : List Byte) (t : Buf) (n : Nat) :
    (s.setRx bs).argBytes t n = s.argBytes t n := rfl

@[simp] theorem record_byte (s : State) (c : Condition) (t : Buf) (i : Nat) :
    (record c s).byte t i = s.byte t i := rfl

@[simp] theorem record_field (s : State) (c : Condition) (t : Buf) (f : Field) :
    (record c s).field t f = s.field t f := rfl

@[simp] theorem record_argBytes (s : State) (c : Condition) (t : Buf) (n : Nat) :
    (record c s).argBytes t n = s.argBytes t n := rfl

@[simp] theorem carry_byte (s : State) (b : Byte) (t : Buf) (i : Nat) :
    (carry b s).byte t i = s.byte t i := rfl

@[simp] theorem carry_field (s : State) (b : Byte) (t : Buf) (f : Field) :
    (carry b s).field t f = s.field t f := rfl

@[simp] theorem carry_argBytes (s : State) (b : Byte) (t : Buf) (n : Nat) :
    (carry b s).argBytes t n = s.argBytes t n := rfl

end Sys2Proof.Machine
end

