-- ==== Sys2Proof/Laws/Memory.lean ====
section
/-! SUPPORT. The laws of the buffer byte space: what a read gives after a write, and that every operation keeps the
canonical form. -/

namespace Sys2Proof.Machine

/-! ### Reads after writes -/

@[simp] theorem readByte_nil (a : Nat) : readByte [] a = 0 := rfl

theorem readByte_eraseByte (m : Memory) (a x : Nat) :
    readByte (eraseByte m a) x = if x = a then 0 else readByte m x := by
  induction m with
  | nil => simp [eraseByte]
  | cons c m ih =>
    obtain ⟨k, v⟩ := c
    rw [eraseByte, List.filter_cons]
    change readByte (if _ then (k, v) :: eraseByte m a else eraseByte m a) x = _
    by_cases hk : k = a
    · subst hk
      rw [if_neg (by simp), ih]
      by_cases hx : x = k
      · simp [hx]
      · simp [hx, readByte, Ne.symm hx]
    · rw [if_pos (by simpa using hk)]
      by_cases hx : x = k
      · subst hx
        simp [readByte, hk]
      · simp [readByte, ih, Ne.symm hx]

theorem readByte_insertByte (m : Memory) (a x : Nat) (b : Byte) (absent : ∀ c ∈ m, c.1 ≠ a) :
    readByte (insertByte m a b) x = if x = a then b else readByte m x := by
  induction m with
  | nil =>
    by_cases hx : x = a
    · simp [insertByte, readByte, hx]
    · simp [insertByte, readByte, hx, Ne.symm hx, unlistedByte]
  | cons c m ih =>
    obtain ⟨k, v⟩ := c
    have hk : k ≠ a := absent (k, v) (by simp)
    have ih := ih fun c hc => absent c (by simp [hc])
    by_cases hlt : a < k
    · by_cases hx : x = a
      · simp [insertByte, hlt, readByte, hx]
      · simp [insertByte, hlt, readByte, hx, Ne.symm hx]
    · by_cases hx : k = x
      · subst hx
        simp [insertByte, hlt, readByte, hk]
      · simp [insertByte, hlt, readByte, hx, ih]

theorem eraseByte_absent (m : Memory) (a : Nat) : ∀ c ∈ eraseByte m a, c.1 ≠ a := by
  intro c hc
  simpa using (List.mem_filter.mp hc).2

/-- A read after a write: the byte written at the address written, and every other address as before. -/
theorem readByte_writeByte (m : Memory) (a x : Nat) (b : Byte) :
    readByte (writeByte m a b) x = if x = a then b else readByte m x := by
  by_cases hb : b = unlistedByte
  · rw [writeByte, if_pos hb, readByte_eraseByte, hb]
    rfl
  · rw [writeByte, if_neg hb, readByte_insertByte _ _ _ _ (eraseByte_absent m a), readByte_eraseByte]
    by_cases hx : x = a <;> simp [hx]

@[simp] theorem readByte_writeByte_same (m : Memory) (a : Nat) (b : Byte) : readByte (writeByte m a b) a = b := by
  simp [readByte_writeByte]

theorem readByte_writeByte_ne (m : Memory) {a x : Nat} (b : Byte) (h : x ≠ a) :
    readByte (writeByte m a b) x = readByte m x := by
  simp [readByte_writeByte, h]

/-- A read after a write of consecutive bytes. -/
theorem readByte_writeBytes (m : Memory) (a x : Nat) (bs : List Byte) :
    readByte (writeBytes m a bs) x = if a ≤ x ∧ x < a + bs.length then bs.getD (x - a) 0 else readByte m x := by
  induction bs generalizing m a with
  | nil =>
    simp [writeBytes]
  | cons b bs ih =>
    rw [writeBytes, ih, readByte_writeByte, List.length_cons]
    by_cases hx : x = a
    · subst hx
      simp
    · by_cases hlo : a + 1 ≤ x
      · have hs : x - a = (x - (a + 1)) + 1 := by omega
        by_cases hhi : x < a + 1 + bs.length
        · rw [if_pos ⟨hlo, hhi⟩, if_pos ⟨by omega, by omega⟩, hs, List.getD_cons_succ]
        · rw [if_neg (by omega), if_neg hx, if_neg (by omega)]
      · rw [if_neg (by omega), if_neg hx, if_neg (by omega)]

@[simp] theorem readBytes_length (m : Memory) (a n : Nat) : (readBytes m a n).length = n := by
  simp [readBytes]

/-- Element `i` of a read of consecutive bytes. -/
theorem readBytes_getElem (m : Memory) (a n i : Nat) (h : i < (readBytes m a n).length) :
    (readBytes m a n)[i] = readByte m (a + i) := by
  simp [readBytes]

/-- A read of consecutive bytes depends on those bytes alone. -/
theorem readBytes_congr {m m' : Memory} {a n : Nat}
    (h : ∀ x, a ≤ x → x < a + n → readByte m x = readByte m' x) : readBytes m a n = readBytes m' a n := by
  apply List.map_congr_left
  intro i hi
  exact h _ (by omega) (by simpa using List.mem_range.mp hi)

/-! ### The canonical form -/

theorem risingFrom_mono {lo lo' : Nat} {m : Memory} (h : lo' ≤ lo) (hm : risingFrom lo m = true) :
    risingFrom lo' m = true := by
  cases m with
  | nil => rfl
  | cons c m =>
    simp only [risingFrom, Bool.and_eq_true, decide_eq_true_eq] at hm ⊢
    exact ⟨by omega, hm.2⟩

theorem risingFrom_eraseByte {lo : Nat} {m : Memory} (a : Nat) (hm : risingFrom lo m = true) :
    risingFrom lo (eraseByte m a) = true := by
  induction m generalizing lo with
  | nil => rfl
  | cons c m ih =>
    simp only [risingFrom, Bool.and_eq_true, decide_eq_true_eq] at hm
    rw [eraseByte, List.filter_cons]
    change risingFrom lo (if _ then c :: eraseByte m a else eraseByte m a) = true
    split
    · simp only [risingFrom, Bool.and_eq_true, decide_eq_true_eq]
      exact ⟨hm.1, ih hm.2⟩
    · exact risingFrom_mono (by omega) (ih hm.2)

theorem risingFrom_insertByte {lo a : Nat} {m : Memory} (b : Byte) (hlo : lo ≤ a) (absent : ∀ c ∈ m, c.1 ≠ a)
    (hm : risingFrom lo m = true) : risingFrom lo (insertByte m a b) = true := by
  induction m generalizing lo with
  | nil => simpa [insertByte, risingFrom] using hlo
  | cons c m ih =>
    obtain ⟨k, v⟩ := c
    have hk : k ≠ a := absent (k, v) (by simp)
    simp only [risingFrom, Bool.and_eq_true, decide_eq_true_eq] at hm
    by_cases hlt : a < k
    · simp only [insertByte, if_pos hlt, risingFrom, Bool.and_eq_true, decide_eq_true_eq]
      exact ⟨hlo, by omega, hm.2⟩
    · simp only [insertByte, if_neg hlt, risingFrom, Bool.and_eq_true, decide_eq_true_eq]
      exact ⟨hm.1, ih (by omega) (fun c hc => absent c (by simp [hc])) hm.2⟩

theorem mem_insertByte {m : Memory} {a : Nat} {b : Byte} {c : Host.Cell} (h : c ∈ insertByte m a b) :
    c = (a, b) ∨ c ∈ m := by
  induction m with
  | nil => simpa [insertByte] using h
  | cons d m ih =>
    obtain ⟨k, v⟩ := d
    rw [insertByte] at h
    split at h
    · simpa using h
    · rcases List.mem_cons.mp h with h | h
      · exact .inr (by simp [h])
      · exact (ih h).imp_right fun h => by simp [h]

@[simp] theorem wf_nil : Memory.wf [] = true := rfl

/-- A write to a cell keeps the canonical form. -/
theorem wf_writeByte {m : Memory} {a : Nat} (b : Byte) (hm : Memory.wf m = true) (ha : isCell a = true) :
    Memory.wf (writeByte m a b) = true := by
  simp only [Memory.wf, Bool.and_eq_true, List.all_eq_true] at hm ⊢
  have herase : ∀ c ∈ eraseByte m a, isCell c.1 = true ∧ (c.2 != unlistedByte) = true :=
    fun c hc => hm.2 c (List.mem_filter.mp hc).1
  rw [writeByte]
  split
  · exact ⟨risingFrom_eraseByte a hm.1, herase⟩
  · rename_i hb
    refine ⟨risingFrom_insertByte b (Nat.zero_le a) (eraseByte_absent m a) (risingFrom_eraseByte a hm.1), ?_⟩
    intro c hc
    rcases mem_insertByte hc with rfl | hc
    · exact ⟨ha, by simpa using hb⟩
    · exact herase c hc

/-- A write of consecutive bytes to cells keeps the canonical form. -/
theorem wf_writeBytes {m : Memory} {a : Nat} {bs : List Byte} (hm : Memory.wf m = true)
    (ha : ∀ x, a ≤ x → x < a + bs.length → isCell x = true) : Memory.wf (writeBytes m a bs) = true := by
  induction bs generalizing m a with
  | nil => exact hm
  | cons b bs ih =>
    refine ih (wf_writeByte b hm (ha a (Nat.le_refl a) (by simp))) fun x h1 h2 => ha x (by omega) ?_
    simp only [List.length_cons]
    omega

/-- The 25 bytes of a buffer are cells (`20_memory.md` R40). -/
theorem isCell_base (t : Buf) {i : Nat} (h : i < 25) : isCell (t.base + i) = true := by
  have hb : t.base = 0 ∨ t.base = 32 := by cases t <;> simp [Buf.base]
  rw [isCell, Bool.and_eq_true]
  refine ⟨decide_eq_true ?_, decide_eq_true ?_⟩ <;>
    simp only [Config.nbuf, Config.frameMax, Config.hdrLen, Config.argCap] <;> omega

/-! ### Equal memories are equal data -/

theorem readByte_of_lt {lo a : Nat} {m : Memory} (hm : risingFrom lo m = true) (h : a < lo) : readByte m a = 0 := by
  induction m generalizing lo with
  | nil => rfl
  | cons c m ih =>
    obtain ⟨k, v⟩ := c
    simp only [risingFrom, Bool.and_eq_true, decide_eq_true_eq] at hm
    rw [readByte, if_neg (by omega)]
    exact ih hm.2 (by omega)

theorem memory_ext_from {lo : Nat} {m m' : Memory} (hm : risingFrom lo m = true) (hm' : risingFrom lo m' = true)
    (hv : ∀ c ∈ m, c.2 ≠ 0) (hv' : ∀ c ∈ m', c.2 ≠ 0) (h : ∀ a, readByte m a = readByte m' a) : m = m' := by
  induction m generalizing lo m' with
  | nil =>
    cases m' with
    | nil => rfl
    | cons c m' =>
      have := h c.1
      simp only [readByte, if_pos] at this
      exact absurd this.symm (hv' c (by simp))
  | cons c m ih =>
    obtain ⟨k, v⟩ := c
    have hv0 : v ≠ 0 := hv (k, v) (by simp)
    simp only [risingFrom, Bool.and_eq_true, decide_eq_true_eq] at hm
    cases m' with
    | nil =>
      have := h k
      simp only [readByte, if_pos] at this
      exact absurd this hv0
    | cons d m' =>
      obtain ⟨k', v'⟩ := d
      have hv0' : v' ≠ 0 := hv' (k', v') (by simp)
      simp only [risingFrom, Bool.and_eq_true, decide_eq_true_eq] at hm'
      have hk : k = k' := by
        rcases Nat.lt_trichotomy k k' with hlt | heq | hlt
        · have h1 := h k
          rw [readByte, if_pos rfl, readByte, if_neg (by omega), readByte_of_lt hm'.2 (by omega)] at h1
          exact absurd h1 hv0
        · exact heq
        · have h1 := h k'
          rw [readByte, if_neg (by omega), readByte_of_lt hm.2 (by omega), readByte, if_pos rfl] at h1
          exact absurd h1.symm hv0'
      subst hk
      have hvv : v = v' := by simpa [readByte] using h k
      subst hvv
      congr 1
      refine ih hm.2 hm'.2 (fun c hc => hv c (by simp [hc])) (fun c hc => hv' c (by simp [hc])) fun a => ?_
      have h1 := h a
      rw [readByte, readByte] at h1
      split at h1
      · rename_i heq
        subst heq
        rw [readByte_of_lt hm.2 (by omega), readByte_of_lt hm'.2 (by omega)]
      · exact h1

/-- Two memories in canonical form that read alike are equal. -/
theorem memory_ext {m m' : Memory} (hm : Memory.wf m = true) (hm' : Memory.wf m' = true)
    (h : ∀ a, readByte m a = readByte m' a) : m = m' := by
  simp only [Memory.wf, Bool.and_eq_true, List.all_eq_true] at hm hm'
  exact memory_ext_from hm.1 hm'.1 (fun c hc => by simpa [unlistedByte] using (hm.2 c hc).2)
    (fun c hc => by simpa [unlistedByte] using (hm'.2 c hc).2) h

end Sys2Proof.Machine
end

