-- ==== Sys2Proof/Laws/Ops.lean ====
section
/-! SUPPORT. For each shared operation, once, what it can do. -/

namespace Sys2Proof.Machine

/-! ### Constants -/

@[simp] theorem argCap_eq : Config.argCap = 20 := rfl

@[simp] theorem hdrLen_eq : Config.hdrLen = 5 := rfl

@[simp] theorem frameMax_eq : Config.frameMax = 25 := rfl

@[simp] theorem crcInit_eq : Config.crcInit = 0x00 := rfl

@[simp] theorem crcSentinel_eq : Config.crcSentinel = 0x00 := rfl

@[simp] theorem statusCode_nullReference : statusCode .nullReference = 0xF8 := rfl

@[simp] theorem statusCode_transportFailure : statusCode .transportFailure = 0xFF := rfl

@[simp] theorem statusCode_timeout : statusCode .timeout = 0xFD := rfl

@[simp] theorem statusCode_checksumFailure : statusCode .checksumFailure = 0xFC := rfl

@[simp] theorem statusCode_dataDropped : statusCode .dataDropped = 0x01 := rfl

/-! ### Operands -/

theorem telegram_eq_none_iff (tsel : BitVec 2) : telegram tsel = none ↔ 2 ≤ tsel.toNat := by
  revert tsel
  decide

/-- A telegram operand names a buffer or none (R10, R74). -/
theorem telegram_cases (tsel : BitVec 2) : (∃ t, telegram tsel = some t) ∨ telegram tsel = none := by
  cases h : telegram tsel
  · exact .inr rfl
  · exact .inl ⟨_, rfl⟩

theorem withTelegram_some {tsel : BitVec 2} {t : Buf} (h : telegram tsel = some t) (s : State) (body : Buf → Result) :
    withTelegram tsel s body = body t := by
  rw [withTelegram, h]

/-- The null-telegram path (R90), as one state. -/
theorem withTelegram_none {tsel : BitVec 2} (h : telegram tsel = none) (s : State) (body : Buf → Result) :
    withTelegram tsel s body =
      .next { s with lastErr := 0xF8, res := some { code := 0xF8, flag := false, val := 0x00 } } := by
  rw [withTelegram, h]
  rfl

theorem withIndex_of_inBuffer {idx : BitVec 5} (h : indexInBuffer idx = true) (body : Nat → Result) :
    withIndex idx body = body idx.toNat := by
  rw [withIndex, if_pos h]

/-! ### Buffers -/

/-- A byte of the same buffer after a byte is written. -/
theorem byte_setByte (s : State) (t : Buf) (i j : Nat) (b : Byte) :
    (s.setByte t i b).byte t j = if j = i then b else s.byte t j := by
  rw [State.byte, setByte_mem, readByte_writeByte]
  by_cases h : j = i
  · rw [if_pos (by omega), if_pos h]
  · rw [if_neg (by omega), if_neg h]
    rfl

theorem byte_setField (s : State) (t : Buf) (f : Field) (j : Nat) (b : Byte) :
    (s.setField t f b).byte t j = if j = f.index then b else s.byte t j :=
  byte_setByte s t f.index j b

/-- A byte of the same buffer after its first bytes are written. -/
theorem byte_setBytes (s : State) (t : Buf) (bs : List Byte) (j : Nat) :
    (s.setBytes t bs).byte t j = if j < bs.length then bs.getD j 0 else s.byte t j := by
  rw [State.byte, setBytes_mem, readByte_writeBytes]
  by_cases h : j < bs.length
  · rw [if_pos (by omega), if_pos h, Nat.add_sub_cancel_left]
  · rw [if_neg (by omega), if_neg h]
    rfl

/-- A byte of a cleared buffer. -/
theorem byte_clearBuffer (s : State) (t : Buf) {j : Nat} (h : j < 25) : (s.clearBuffer t).byte t j = 0x00 := by
  rw [State.clearBuffer, byte_setBytes, List.length_replicate, if_pos (by simpa using h)]
  rw [List.getD_eq_getElem _ _ (by simpa using h), List.getElem_replicate]

/-- Clearing a buffer leaves every other address. -/
theorem readByte_clearBuffer (s : State) (t : Buf) {a : Nat} (h : ¬ (t.base ≤ a ∧ a < t.base + 25)) :
    readByte (s.clearBuffer t).mem a = readByte s.mem a := by
  rw [clearBuffer_mem, readByte_writeBytes, List.length_replicate, if_neg (by simpa using h)]

/-- Writing the first bytes of a buffer leaves every other address. -/
theorem readByte_setBytes (s : State) (t : Buf) (bs : List Byte) {a : Nat}
    (h : ¬ (t.base ≤ a ∧ a < t.base + bs.length)) : readByte (s.setBytes t bs).mem a = readByte s.mem a := by
  rw [setBytes_mem, readByte_writeBytes, if_neg h]

/-- Writing to a buffer leaves everything but memory. -/
theorem setBytes_rest (s : State) (t : Buf) (bs : List Byte) :
    s.setBytes t bs = { s with mem := (s.setBytes t bs).mem } := rfl

/-- Clearing a buffer leaves everything but memory. -/
theorem clearBuffer_rest (s : State) (t : Buf) : s.clearBuffer t = { s with mem := (s.clearBuffer t).mem } :=
  setBytes_rest s t _

/-- Clearing a buffer, once and for all: a new memory that reads 0x00 in the 25 bytes of the buffer and as before
elsewhere, in canonical form if the old one was. -/
theorem clearBuffer_spec (s : State) (t : Buf) :
    ∃ m, s.clearBuffer t = { s with mem := m } ∧ (∀ i, i < 25 → readByte m (t.base + i) = 0x00) ∧
      (∀ a, ¬ (t.base ≤ a ∧ a < t.base + 25) → readByte m a = readByte s.mem a) ∧
      (Memory.wf s.mem = true → Memory.wf m = true) := by
  refine ⟨(s.clearBuffer t).mem, clearBuffer_rest s t, fun i h => ?_, fun a h => readByte_clearBuffer s t h,
    fun h => ?_⟩
  · have e := byte_clearBuffer s t h
    rw [State.byte] at e
    exact e
  · rw [clearBuffer_mem]
    refine wf_writeBytes h fun x h1 h2 => ?_
    rw [List.length_replicate, frameMax_eq] at h2
    obtain ⟨i, rfl⟩ : ∃ i, x = t.base + i := ⟨x - t.base, by omega⟩
    exact isCell_base t (by omega)

theorem field_eq_byte (s : State) (t : Buf) (f : Field) : s.field t f = s.byte t f.index := rfl

/-- The argument bytes, one by one. -/
theorem argBytes_eq (s : State) (t : Buf) (n : Nat) :
    s.argBytes t n = (List.range n).map fun j => s.byte t (5 + j) := by
  simp only [State.argBytes, readBytes, State.byte, argIndex, hdrLen_eq, Nat.add_zero, Nat.add_assoc]

@[simp] theorem argBytes_length (s : State) (t : Buf) (n : Nat) : (s.argBytes t n).length = n := by
  simp [argBytes_eq]

/-- The argument bytes depend on those bytes alone. -/
theorem argBytes_congr {s s' : State} {t t' : Buf} {n : Nat}
    (h : ∀ j, j < n → s.byte t (5 + j) = s'.byte t' (5 + j)) : s.argBytes t n = s'.argBytes t' n := by
  rw [argBytes_eq, argBytes_eq]
  exact List.map_congr_left fun j hj => h j (List.mem_range.mp hj)

/-- The frame is the first `5 + arg_cnt` bytes of the buffer (R60: the wire order is the storage order, D9). -/
theorem frame_eq (s : State) (t : Buf) :
    frame t s = (List.range (5 + (s.byte t 4).toNat)).map fun i => s.byte t i := by
  have h : (List.range 5).map (fun i => s.byte t i) =
      [s.byte t 0, s.byte t 1, s.byte t 2, s.byte t 3, s.byte t 4] := rfl
  rw [List.range_add, List.map_append, h, List.map_map, frame, argBytes_eq]
  rfl

/-! ### Conditions -/

theorem raise_eq (c : Condition) (r : Res) (s : State) :
    raise c r s = .next { s with lastErr := statusCode c, res := some { r with code := statusCode c } } := rfl

theorem finish_eq (r : Res) (s : State) : finish r s = .next { s with res := some r } := rfl

/-! ### Transport -/

/-- `TxWrite` appends the bytes, or a prefix of them (R45). -/
theorem txWrite_cases (bs : List Byte) (s : State) :
    (s.env.txWrite = .ok ∧ txWrite bs s = (true, s.setTx (s.tx ++ bs))) ∨
    ∃ k, s.env.txWrite = .fail k ∧ txWrite bs s = (false, s.setTx (s.tx ++ bs.take k)) := by
  rw [txWrite]
  cases h : s.env.txWrite with
  | ok => exact .inl ⟨rfl, rfl⟩
  | fail k => exact .inr ⟨k, rfl, rfl⟩

/-- `RxRead` takes bytes from the front of `RX`: the `n` asked for, and answers them, or fewer, and loses them
(R47, R48). -/
theorem rxRead_cases (n : Nat) (answer : ReadAnswer) (s : State) :
    (answer = .arrive ∧ n ≤ s.rx.length ∧ rxRead n answer s = (.bytes (s.rx.take n), s.setRx (s.rx.drop n))) ∨
    (answer = .arrive ∧ s.rx.length < n ∧ rxRead n answer s = (.timeout, s.setRx [])) ∨
    (∃ k, answer = .timeout k ∧ rxRead n answer s = (.timeout, s.setRx (s.rx.drop (min k (n - 1))))) ∨
    ∃ k, answer = .fail k ∧ rxRead n answer s = (.fail, s.setRx (s.rx.drop (min k (n - 1)))) := by
  cases answer with
  | arrive =>
    by_cases h : n ≤ s.rx.length
    · exact .inl ⟨rfl, h, by simp [rxRead, h]⟩
    · exact .inr (.inl ⟨rfl, by omega, by simp [rxRead, h]⟩)
  | timeout k => exact .inr (.inr (.inl ⟨k, rfl, rfl⟩))
  | fail k => exact .inr (.inr (.inr ⟨k, rfl, rfl⟩))

/-- What is left of `RX` after a read, in every case: a drop of at most `n` bytes; nothing else of the state changes. -/
theorem rxRead_drops (n : Nat) (answer : ReadAnswer) (s : State) :
    ∃ k, k ≤ n ∧ (rxRead n answer s).2 = s.setRx (s.rx.drop k) ∧
      ∀ bs, (rxRead n answer s).1 = .bytes bs → k = n ∧ bs = s.rx.take n ∧ n ≤ s.rx.length := by
  rcases rxRead_cases n answer s with ⟨-, h, e⟩ | ⟨-, h, e⟩ | ⟨k, -, e⟩ | ⟨k, -, e⟩ <;> rw [e]
  · refine ⟨n, Nat.le_refl n, rfl, fun bs hbs => ?_⟩
    simp only [ReadResult.bytes.injEq] at hbs
    exact ⟨rfl, hbs.symm, h⟩
  · exact ⟨s.rx.length, by omega, by simp, by simp⟩
  · exact ⟨min k (n - 1), by omega, rfl, by simp⟩
  · exact ⟨min k (n - 1), by omega, rfl, by simp⟩

theorem readArgs_zero (s : State) : readArgs 0 s = (.bytes [], s) := rfl

theorem readArgs_pos {n : Nat} (h : 0 < n) (s : State) : readArgs n s = rxRead n s.env.args s := by
  rw [readArgs, if_neg (by omega)]

/-- ENCODE from its `TxAvail()` test onward, in its three cases (R126, R127). -/
theorem transmit_cases (t : Buf) (r : Res) (s : State) :
    (s.env.txAvail = true ∧ s.env.txWrite = .ok ∧
      transmit t r s = .next { s with tx := s.tx ++ frame t s, res := some r }) ∨
    (s.env.txAvail = false ∧
      transmit t r s = .next { s with lastErr := 0xFF, res := some { r with code := 0xFF } }) ∨
    ∃ k, s.env.txAvail = true ∧ s.env.txWrite = .fail k ∧
      transmit t r s =
        .next { s with tx := s.tx ++ (frame t s).take k, lastErr := 0xFF, res := some { r with code := 0xFF } } := by
  rw [transmit]
  cases h : s.env.txAvail with
  | false => exact .inr (.inl ⟨rfl, rfl⟩)
  | true =>
    rcases txWrite_cases (frame t s) s with ⟨hw, e⟩ | ⟨k, hw, e⟩
    · refine .inl ⟨rfl, hw, ?_⟩
      rw [if_pos rfl, e]
      rfl
    · refine .inr (.inr ⟨k, rfl, hw, ?_⟩)
      rw [if_pos rfl, e]
      rfl

/-! ### Finalization -/

theorem exceedsCapacity_iff (n : Byte) : exceedsCapacity n = true ↔ 20 < n.toNat := by
  simp [exceedsCapacity]

theorem argLimit_eq (n : Byte) : argLimit n = min n.toNat 20 := rfl

theorem argLimit_le (n : Byte) : argLimit n ≤ 20 := Nat.min_le_right _ _

theorem toNat_argLimit (n : Byte) : (BitVec.ofNat 8 (argLimit n)).toNat = min n.toNat 20 := by
  rw [BitVec.toNat_ofNat, argLimit_eq, Nat.mod_eq_of_lt (by omega)]

/-- What the three steps of finalization leave of the state outside memory. -/
theorem finalizeSteps_rest (t : Buf) (r : Res) (s : State) :
    (finalizeSteps t r s).2 =
      { s with mem := (finalizeSteps t r s).2.mem, seq := s.seq + 1,
               lastErr := if 20 < (s.byte t 4).toNat then 0x01 else s.lastErr } := by
  have h : exceedsCapacity (s.field t .argCnt) = true ↔ 20 < (s.byte t 4).toNat := exceedsCapacity_iff _
  rw [finalizeSteps, clampStep]
  by_cases hc : 20 < (s.byte t 4).toNat
  · rw [if_pos (h.mpr hc), if_pos hc]
    simp only [checksumStep]
    split <;> rfl
  · rw [if_neg (by rwa [h]), if_neg hc]
    simp only [checksumStep]
    split <;> rfl

/-- The result that finalization leaves. -/
theorem finalizeSteps_res (t : Buf) (r : Res) (s : State) :
    (finalizeSteps t r s).1 =
      { r with code := if 20 < (s.byte t 4).toNat then 0x01 else r.code, flag := true } := by
  have h : exceedsCapacity (s.field t .argCnt) = true ↔ 20 < (s.byte t 4).toNat := exceedsCapacity_iff _
  rw [finalizeSteps, clampStep]
  by_cases hc : 20 < (s.byte t 4).toNat
  · rw [if_pos (h.mpr hc), if_pos hc]
    rfl
  · rw [if_neg (by rwa [h]), if_neg hc]

/-- The clamp, byte by byte. -/
theorem byte_clampStep (t : Buf) (r : Res) (s : State) (j : Nat) :
    (clampStep t r s).2.byte t j =
      if 20 < (s.byte t 4).toNat then (if j = 3 then 0x01 else if j = 4 then 20#8 else s.byte t j)
      else s.byte t j := by
  have h : exceedsCapacity (s.field t .argCnt) = true ↔ 20 < (s.byte t 4).toNat := exceedsCapacity_iff _
  rw [clampStep]
  by_cases hc : 20 < (s.byte t 4).toNat
  · rw [if_pos (h.mpr hc), if_pos hc]
    change ((s.setField t .argCnt 20#8).setField t .status 0x01).byte t j = _
    simp only [byte_setField, Field.index]
    rfl
  · rw [if_neg (by rwa [h]), if_neg hc]

/-- The `arg_cnt` that the clamp leaves. -/
theorem toNat_clampStep (t : Buf) (r : Res) (s : State) :
    ((clampStep t r s).2.byte t 4).toNat = min (s.byte t 4).toNat 20 := by
  rw [byte_clampStep]
  by_cases hc : 20 < (s.byte t 4).toNat
  · rw [if_pos hc, if_neg (by decide), if_pos rfl, Nat.min_eq_right (by omega)]
    rfl
  · rw [if_neg hc, Nat.min_eq_left (by omega)]

theorem byte_checksumStep (t : Buf) (s : State) (j : Nat) :
    (checksumStep t s).byte t j =
      if j = 1 then (if s.byte t 4 = 0x00 then 0x00 else crc8 (s.argBytes t (s.byte t 4).toNat)) else s.byte t j := by
  have h4 : s.field t .argCnt = s.byte t 4 := rfl
  rw [checksumStep, h4]
  by_cases h : s.byte t 4 = 0x00
  · rw [if_pos h, if_pos h, byte_setField]
    rfl
  · rw [if_neg h, if_neg h, byte_setField]
    rfl

theorem byte_sequenceStep (t : Buf) (s : State) (j : Nat) :
    (sequenceStep t s).byte t j = if j = 2 then s.seq else s.byte t j := by
  change (s.setField t .sequence s.seq).byte t j = _
  rw [byte_setField]
  rfl

theorem seq_clampStep (t : Buf) (r : Res) (s : State) : (clampStep t r s).2.seq = s.seq := by
  rw [clampStep]
  split <;> rfl

theorem seq_checksumStep (t : Buf) (s : State) : (checksumStep t s).seq = s.seq := by
  rw [checksumStep]
  split <;> rfl

/-- What finalization leaves in its buffer (R121 to R124): byte 1 the checksum of the clamped length, byte 2 the
number, byte 3 the warning when it clamps, byte 4 the clamped count, every other byte as before. -/
theorem byte_finalizeSteps (t : Buf) (r : Res) (s : State) (j : Nat) :
    (finalizeSteps t r s).2.byte t j =
      if j = 1 then
        (if s.byte t 4 = 0x00 then 0x00 else crc8 (s.argBytes t (min (s.byte t 4).toNat 20)))
      else if j = 2 then s.seq
      else if j = 3 then (if 20 < (s.byte t 4).toNat then 0x01 else s.byte t 3)
      else if j = 4 then BitVec.ofNat 8 (min (s.byte t 4).toNat 20)
      else s.byte t j := by
  rw [finalizeSteps, byte_sequenceStep, seq_checksumStep, seq_clampStep]
  by_cases h2 : j = 2
  · subst h2
    rfl
  rw [if_neg h2, byte_checksumStep, if_neg h2]
  by_cases h1 : j = 1
  · subst h1
    rw [if_pos rfl, if_pos rfl, toNat_clampStep]
    have hz : (clampStep t r s).2.byte t 4 = 0x00 ↔ s.byte t 4 = 0x00 := by
      rw [← BitVec.toNat_inj, ← BitVec.toNat_inj, toNat_clampStep]
      change min _ 20 = 0 ↔ _ = 0
      omega
    rw [argBytes_congr (s' := s) (t' := t) (n := min (s.byte t 4).toNat 20) fun j _ => by
      rw [byte_clampStep, if_neg (by omega : ¬ 5 + j = 3), if_neg (by omega : ¬ 5 + j = 4), ite_self]]
    by_cases h0 : s.byte t 4 = 0x00
    · rw [if_pos (hz.mpr h0), if_pos h0]
    · rw [if_neg (fun h => h0 (hz.mp h)), if_neg h0]
  rw [if_neg h1, if_neg h1, byte_clampStep]
  by_cases h3 : j = 3
  · subst h3
    rw [if_pos rfl, if_pos rfl]
  rw [if_neg h3, if_neg h3]
  by_cases h4 : j = 4
  · subst h4
    rw [if_pos rfl, if_pos rfl]
    by_cases hc : 20 < (s.byte t 4).toNat
    · rw [if_pos hc, Nat.min_eq_right (by omega)]
    · rw [if_neg hc, Nat.min_eq_left (by omega), BitVec.ofNat_toNat, BitVec.setWidth_eq]
  rw [if_neg h4, if_neg h4, ite_self]

/-- Finalization writes bytes 1 to 4 of its buffer, and no other address. -/
theorem readByte_finalizeSteps (t : Buf) (r : Res) (s : State) {a : Nat}
    (h : ¬ (t.base + 1 ≤ a ∧ a ≤ t.base + 4)) : readByte (finalizeSteps t r s).2.mem a = readByte s.mem a := by
  have hf : ∀ (s : State) (f : Field) (b : Byte), f.index ≠ 0 →
      readByte (s.setField t f b).mem a = readByte s.mem a := by
    intro s f b hf
    rw [setField_mem, readByte_writeByte_ne]
    have : f.index ≤ 4 := by cases f <;> decide
    omega
  have h1 : readByte (clampStep t r s).2.mem a = readByte s.mem a := by
    rw [clampStep]
    split
    · rw [record_mem, hf _ _ _ (by decide), hf _ _ _ (by decide)]
    · rfl
  have h2 : ∀ s : State, readByte (checksumStep t s).mem a = readByte s.mem a := by
    intro s
    rw [checksumStep]
    split <;> exact hf _ _ _ (by decide)
  rw [finalizeSteps]
  change readByte (((checksumStep t (clampStep t r s).2).setField t .sequence _).setSeq _).mem a = _
  rw [setSeq_mem, hf _ _ _ (by decide), h2, h1]

/-! ### Deframing -/

/-- A received telegram, stored (R131, R133), as one state. -/
theorem storeTelegram_eq (t : Buf) (header args : List Byte) (s : State) :
    storeTelegram t header args s =
      .next { s with
        mem := writeBytes s.mem t.base
          (header.take 4 ++ [BitVec.ofNat 8 (argLimit (header.getD 4 0x00))] ++ args)
        lastErr := if 20 < (header.getD 4 0x00).toNat then 0x01 else s.lastErr
        res := some
          { code := if 20 < (header.getD 4 0x00).toNat then 0x01 else 0x00, flag := false, val := 0x00 } } := by
  rw [storeTelegram]
  by_cases h : 20 < (header.getD 4 0x00).toNat
  · rw [if_pos ((exceedsCapacity_iff _).mpr h), if_pos h, if_pos h]
    rfl
  · rw [if_neg (by rwa [exceedsCapacity_iff]), if_neg h, if_neg h]
    rfl

/-- DECODE from its `RxAvail()` test onward ends in every environment. -/
theorem receive_completes (t : Buf) (s : State) : ∃ s', receive t s = .next s' := by
  rw [receive]
  split
  · split
    · exact ⟨_, rfl⟩
    · exact ⟨_, rfl⟩
    · rw [receiveArgs]
      split
      · exact ⟨_, rfl⟩
      · exact ⟨_, rfl⟩
      · exact ⟨_, storeTelegram_eq _ _ _ _⟩
  · exact ⟨_, rfl⟩

/-- A whole frame at the front of `RX`, received (R131, R132, R133): 5 bytes and then `min(arg_cnt, 20)` are taken and
stored, in one state. -/
theorem receive_arrive (s : State) (t : Buf) (h0 h1 h2 h3 h4 : Byte) (args rest : List Byte)
    (hr : s.env.rxAvail = true) (hh : s.env.header = .arrive) (ha : 0 < h4.toNat → s.env.args = .arrive)
    (hl : args.length = min h4.toNat 20) (hx : s.rx = [h0, h1, h2, h3, h4] ++ args ++ rest) :
    receive t s =
      .next { s with
        mem := writeBytes s.mem t.base ([h0, h1, h2, h3, BitVec.ofNat 8 (min h4.toNat 20)] ++ args)
        rx := rest
        lastErr := if 20 < h4.toNat then 0x01 else s.lastErr
        res := some { code := if 20 < h4.toNat then 0x01 else 0x00, flag := false, val := 0x00 } } := by
  have e1 : rxRead 5 .arrive s = (.bytes [h0, h1, h2, h3, h4], s.setRx (args ++ rest)) := by
    simp only [rxRead, hx]
    rw [if_pos (by simp)]
    simp
  have e2 : readArgs (argLimit ([h0, h1, h2, h3, h4].getD 4 0)) (s.setRx (args ++ rest)) =
      (.bytes args, s.setRx rest) := by
    change readArgs (min h4.toNat 20) _ = _
    by_cases h : min h4.toNat 20 = 0
    · rw [h] at hl ⊢
      obtain rfl : args = [] := List.eq_nil_of_length_eq_zero hl
      rfl
    · rw [readArgs_pos (by omega), setRx_env, ha (by omega), rxRead, if_pos (by simp; omega), ← hl]
      simp
      rfl
  simp only [receive, hr, if_true, hdrLen_eq, hh, e1, receiveArgs]
  rw [e2]
  dsimp only
  rw [storeTelegram_eq]
  rfl

/-- What DECODE can do from its `RxAvail()` test onward: memory is left, or the received telegram is written into it;
at most 25 bytes are taken from `RX`; the result is success, or one of DataDropped, TransportFailure and Timeout,
recorded; nothing else changes. -/
def ReceiveEffect (t : Buf) (c s' : State) : Prop :=
  (s'.mem = c.mem ∨
    ∃ (h0 h1 h2 h3 h4 : Byte) (args : List Byte), args.length = min h4.toNat 20 ∧
      s'.mem = writeBytes c.mem t.base ([h0, h1, h2, h3, BitVec.ofNat 8 (min h4.toNat 20)] ++ args)) ∧
  s'.tx = c.tx ∧ s'.seq = c.seq ∧ s'.crcAcc = c.crcAcc ∧ s'.seqReset = c.seqReset ∧ s'.env = c.env ∧
  s'.inputs = c.inputs ∧ (∃ n, n ≤ 25 ∧ s'.rx = c.rx.drop n) ∧
  ∃ e, s'.res = some { code := e, flag := false, val := 0x00 } ∧
    ((e = 0x00 ∧ s'.lastErr = c.lastErr) ∨ (e ∈ [(0x01 : Byte), 0xFF, 0xFD] ∧ s'.lastErr = e))

/-- DECODE from its `RxAvail()` test onward has that effect in every environment. -/
theorem receive_spec {c s' : State} {t : Buf} (h : receive t c = .next s') : ReceiveEffect t c s' := by
  have failed : ∀ (n : Nat) (e : Byte), n ≤ 25 → e ∈ [(0x01 : Byte), 0xFF, 0xFD] →
      s' = { c with rx := c.rx.drop n, lastErr := e, res := some { code := e, flag := false, val := 0x00 } } →
      ReceiveEffect t c s' :=
    fun n e hn he hs => by
      subst hs
      exact ⟨.inl rfl, rfl, rfl, rfl, rfl, rfl, rfl, ⟨n, hn, rfl⟩, e, rfl, .inr ⟨he, rfl⟩⟩
  have stored : ∀ (n : Nat) (h0 h1 h2 h3 h4 : Byte) (args : List Byte), n ≤ 25 → args.length = min h4.toNat 20 →
      storeTelegram t [h0, h1, h2, h3, h4] args (c.setRx (c.rx.drop n)) = .next s' →
      ReceiveEffect t c s' :=
    fun n h0 h1 h2 h3 h4 args hn hl hs => by
      rw [storeTelegram_eq] at hs
      cases hs
      refine ⟨.inr ⟨h0, h1, h2, h3, h4, args, hl, rfl⟩, rfl, rfl, rfl, rfl, rfl, rfl, ⟨n, hn, rfl⟩, _, rfl, ?_⟩
      by_cases hc : 20 < h4.toNat
      · exact .inr (by simp [hc])
      · exact .inl (by simp [hc])
  rw [receive] at h
  split at h
  · rw [hdrLen_eq] at h
    obtain ⟨k, hk, e2, e3⟩ := rxRead_drops 5 c.env.header c
    generalize rxRead 5 c.env.header c = q at h e2 e3
    obtain ⟨q1, q2⟩ := q
    dsimp only at e2 e3
    subst e2
    cases q1 with
    | timeout => cases h; exact failed k 0xFD (by omega) (by decide) rfl
    | fail => cases h; exact failed k 0xFF (by omega) (by decide) rfl
    | bytes header =>
      obtain ⟨rfl, rfl, hlen⟩ := e3 _ rfl
      obtain ⟨h0, h1, h2, h3, h4, later, hx⟩ : ∃ h0 h1 h2 h3 h4 later, c.rx = h0 :: h1 :: h2 :: h3 :: h4 :: later := by
        match hh : c.rx, hlen with
        | h0 :: h1 :: h2 :: h3 :: h4 :: later, _ => exact ⟨_, _, _, _, _, _, rfl⟩
      have hd : c.rx.take 5 = [h0, h1, h2, h3, h4] := by rw [hx]; rfl
      have hlim : argLimit ([h0, h1, h2, h3, h4].getD 4 0) = min h4.toNat 20 := rfl
      rw [hd] at h
      simp only [receiveArgs, hlim] at h
      by_cases hz : min h4.toNat 20 = 0
      · rw [hz, readArgs_zero] at h
        exact stored 5 h0 h1 h2 h3 h4 [] (by omega) (by simp only [List.length_nil]; omega) h
      · rw [readArgs_pos (by omega)] at h
        obtain ⟨j, hj, e4, e5⟩ := rxRead_drops (min h4.toNat 20) (c.setRx (c.rx.drop 5)).env.args (c.setRx (c.rx.drop 5))
        generalize rxRead (min h4.toNat 20) (c.setRx (c.rx.drop 5)).env.args (c.setRx (c.rx.drop 5)) = q at h e4 e5
        obtain ⟨p1, p2⟩ := q
        dsimp only at e4 e5
        have e6 : p2 = c.setRx (c.rx.drop (5 + j)) := by rw [e4, setRx_rx, List.drop_drop]; rfl
        subst e6
        cases p1 with
        | timeout => cases h; exact failed (5 + j) 0xFD (by omega) (by decide) rfl
        | fail => cases h; exact failed (5 + j) 0xFF (by omega) (by decide) rfl
        | bytes args =>
          obtain ⟨rfl, rfl, hlen'⟩ := e5 _ rfl
          exact stored _ h0 h1 h2 h3 h4 _ (by omega) (by rw [List.length_take]; omega) h
  · cases h
    exact failed 0 0xFF (by omega) (by decide) rfl

/-! ### The canonical form of memory -/

/-- A write of at most 25 bytes from the base of a buffer keeps the canonical form. -/
theorem wf_writeBytes_base {m : Memory} (t : Buf) {bs : List Byte} (h : Memory.wf m = true) (hl : bs.length ≤ 25) :
    Memory.wf (writeBytes m t.base bs) = true := by
  refine wf_writeBytes h fun x h1 h2 => ?_
  obtain ⟨i, rfl⟩ : ∃ i, x = t.base + i := ⟨x - t.base, by omega⟩
  exact isCell_base t (by omega)

/-- A write of a header field keeps the canonical form. -/
theorem wf_setField {s : State} (t : Buf) (f : Field) (b : Byte) (h : Memory.wf s.mem = true) :
    Memory.wf (s.setField t f b).mem = true := by
  rw [setField_mem]
  exact wf_writeByte _ h (isCell_base t (by cases f <;> decide))

/-- Finalization keeps the canonical form. -/
theorem wf_finalizeSteps (t : Buf) (r : Res) {s : State} (h : Memory.wf s.mem = true) :
    Memory.wf (finalizeSteps t r s).2.mem = true := by
  have h1 : Memory.wf (clampStep t r s).2.mem = true := by
    rw [clampStep]
    split
    · rw [record_mem]
      exact wf_setField _ _ _ (wf_setField _ _ _ h)
    · exact h
  have h2 : ∀ s : State, Memory.wf s.mem = true → Memory.wf (checksumStep t s).mem = true := by
    intro s h
    rw [checksumStep]
    split <;> exact wf_setField _ _ _ h
  rw [finalizeSteps]
  change Memory.wf (((checksumStep t (clampStep t r s).2).setField t .sequence _).setSeq _).mem = true
  rw [setSeq_mem]
  exact wf_setField _ _ _ (h2 _ h1)

end Sys2Proof.Machine
end

