-- ==== Sys2Proof/Laws/PerInstr.lean ====
section
/-! SUPPORT. Statements about every instruction, one lemma for each constructor of `Instr`.

`RowEncoding`: the code unit that the encoder writes has the fixed bits of its row of spec/opcode_table.json
(`30_encoding.md` R66, R76), written here from the table's own mask and match columns, whatever the operands are. -/

namespace Sys2Proof.Laws.RowEncoding

/-- The mask and match columns of the row of an instruction, as 24-bit values (a telegram byte has mask 0xFF). -/
def row : Instr → CmdWord × CmdWord
  | .clear _ => (0xFF9FFF, 0x100000)
  | .rdf _ _ => (0xFF80FF, 0x200000)
  | .wrf _ _ _ => (0xFF8000, 0x300000)
  | .crcinit => (0xFFFFFF, 0x400000)
  | .crcbyte _ => (0xFFFF00, 0x500000)
  | .crcrd => (0xFFFFFF, 0x600000)
  | .crct _ => (0xFF9FFF, 0x700000)
  | .finalize _ => (0xFF9FFF, 0x800000)
  | .encode _ => (0xFF9FFF, 0x900000)
  | .send _ => (0xFF9FFF, 0xA00000)
  | .decode _ => (0xFF9FFF, 0xB00000)
  | .verify _ => (0xFF9FFF, 0xC00000)
  | .rdseq => (0xFFFFFF, 0xD00000)
  | .rderr => (0xFFFFFF, 0xE00000)
  | .wrerr _ => (0xFFFF00, 0xF00000)
  | .opFirmwareVersion => (0xFF, 0x01)
  | .opHardwareVersion => (0xFF, 0x02)
  | .opProtocolVersion => (0xFF, 0x03)
  | .opResponseMarker => (0xFF, 0x04)
  | .opHangup => (0xFF, 0x05)
  | .opResend => (0xFF, 0x06)
  | .opSensorIdFirst => (0xFF, 0x30)
  | .opSensorIdNext => (0xFF, 0x31)
  | .opTemperatureFirst => (0xFF, 0x32)
  | .opTemperatureNext => (0xFF, 0x33)
  | .opTemperatureById => (0xFF, 0x34)
  | .opDataBlockFirst => (0xFF, 0x35)
  | .opDataBlockNext => (0xFF, 0x36)
  | .opDataBlockById => (0xFF, 0x37)
  | .opResolutionGetFirst => (0xFF, 0x38)
  | .opResolutionGetNext => (0xFF, 0x39)
  | .opResolutionGetById => (0xFF, 0x3A)
  | .opResolutionSetFirst => (0xFF, 0x3B)
  | .opResolutionSetNext => (0xFF, 0x3C)
  | .opResolutionSetById => (0xFF, 0x3D)
  | .opBusReset => (0xFF, 0x40)
  | .opBusResetSearch => (0xFF, 0x41)
  | .opBusSelectId => (0xFF, 0x42)
  | .opParasiticConversion => (0xFF, 0x43)
  | .opNoParasiticConversion => (0xFF, 0x44)
  | .opReadScratchpad => (0xFF, 0x45)
  | .opRunVerbose => (0xFF, 0x46)
  | .opRunSummary => (0xFF, 0x47)
  | .opRunQuiet => (0xFF, 0x48)
  | .opBusPowerOn => (0xFF, 0x4E)
  | .opBusPowerOff => (0xFF, 0x4F)
  | .opEndOfTable => (0xFF, 0xFF)

/-- The bits of a code unit, as a 24-bit value. -/
def bits : CodeUnit → CmdWord
  | .command w => w
  | .telegramByte b => b.setWidth 24

/-- The code unit of an instruction has the fixed bits of its row. -/
def Statement (i : Instr) : Prop := bits (Sys2Proof.encode i) &&& (row i).1 = (row i).2

/-- The same, from a word and a row. -/
theorem of_eq {i : Instr} {w mask pattern : CmdWord} (hw : bits (Sys2Proof.encode i) = w)
    (hr : row i = (mask, pattern)) (h : w &&& mask = pattern) : Statement i := by
  rw [Statement, hw, hr]
  exact h

theorem fixedT (c : BitVec 4) (tsel : BitVec 2) : wordT c tsel &&& 0xFF9FFF = fieldsWord c 0 0 0 0 := by
  rw [wordT_fields]
  exact masked_fields .T c 0 tsel 0 0

theorem fixedF (c : BitVec 4) (tsel : BitVec 2) (idx : BitVec 5) :
    wordF c tsel idx &&& 0xFF80FF = fieldsWord c 0 0 0 0 := by
  rw [wordF_fields]
  exact masked_fields .F c 0 tsel idx 0

theorem fixedW (c : BitVec 4) (tsel : BitVec 2) (idx : BitVec 5) (v : Byte) :
    wordW c tsel idx v &&& 0xFF8000 = fieldsWord c 0 0 0 0 := by
  rw [wordW_fields]
  exact masked_fields .W c 0 tsel idx v

theorem fixedI (c : BitVec 4) (v : Byte) : wordI c v &&& 0xFFFF00 = fieldsWord c 0 0 0 0 := by
  rw [wordI_fields]
  exact masked_fields .I c 0 0 0 v

theorem clear (tsel : BitVec 2) : Statement (.clear tsel) := of_eq rfl rfl ((fixedT 0x1 tsel).trans rfl)

theorem rdf (tsel : BitVec 2) (idx : BitVec 5) : Statement (.rdf tsel idx) := of_eq rfl rfl ((fixedF 0x2 tsel idx).trans rfl)

theorem wrf (tsel : BitVec 2) (idx : BitVec 5) (v : Byte) : Statement (.wrf tsel idx v) := of_eq rfl rfl ((fixedW 0x3 tsel idx v).trans rfl)

theorem crcinit : Statement (.crcinit) := rfl

theorem crcbyte (v : Byte) : Statement (.crcbyte v) := of_eq rfl rfl ((fixedI 0x5 v).trans rfl)

theorem crcrd : Statement (.crcrd) := rfl

theorem crct (tsel : BitVec 2) : Statement (.crct tsel) := of_eq rfl rfl ((fixedT 0x7 tsel).trans rfl)

theorem finalize (tsel : BitVec 2) : Statement (.finalize tsel) := of_eq rfl rfl ((fixedT 0x8 tsel).trans rfl)

theorem encode (tsel : BitVec 2) : Statement (.encode tsel) := of_eq rfl rfl ((fixedT 0x9 tsel).trans rfl)

theorem send (tsel : BitVec 2) : Statement (.send tsel) := of_eq rfl rfl ((fixedT 0xA tsel).trans rfl)

theorem decode (tsel : BitVec 2) : Statement (.decode tsel) := of_eq rfl rfl ((fixedT 0xB tsel).trans rfl)

theorem verify (tsel : BitVec 2) : Statement (.verify tsel) := of_eq rfl rfl ((fixedT 0xC tsel).trans rfl)

theorem rdseq : Statement (.rdseq) := rfl

theorem rderr : Statement (.rderr) := rfl

theorem wrerr (v : Byte) : Statement (.wrerr v) := of_eq rfl rfl ((fixedI 0xF v).trans rfl)

theorem opFirmwareVersion : Statement .opFirmwareVersion := rfl

theorem opHardwareVersion : Statement .opHardwareVersion := rfl

theorem opProtocolVersion : Statement .opProtocolVersion := rfl

theorem opResponseMarker : Statement .opResponseMarker := rfl

theorem opHangup : Statement .opHangup := rfl

theorem opResend : Statement .opResend := rfl

theorem opSensorIdFirst : Statement .opSensorIdFirst := rfl

theorem opSensorIdNext : Statement .opSensorIdNext := rfl

theorem opTemperatureFirst : Statement .opTemperatureFirst := rfl

theorem opTemperatureNext : Statement .opTemperatureNext := rfl

theorem opTemperatureById : Statement .opTemperatureById := rfl

theorem opDataBlockFirst : Statement .opDataBlockFirst := rfl

theorem opDataBlockNext : Statement .opDataBlockNext := rfl

theorem opDataBlockById : Statement .opDataBlockById := rfl

theorem opResolutionGetFirst : Statement .opResolutionGetFirst := rfl

theorem opResolutionGetNext : Statement .opResolutionGetNext := rfl

theorem opResolutionGetById : Statement .opResolutionGetById := rfl

theorem opResolutionSetFirst : Statement .opResolutionSetFirst := rfl

theorem opResolutionSetNext : Statement .opResolutionSetNext := rfl

theorem opResolutionSetById : Statement .opResolutionSetById := rfl

theorem opBusReset : Statement .opBusReset := rfl

theorem opBusResetSearch : Statement .opBusResetSearch := rfl

theorem opBusSelectId : Statement .opBusSelectId := rfl

theorem opParasiticConversion : Statement .opParasiticConversion := rfl

theorem opNoParasiticConversion : Statement .opNoParasiticConversion := rfl

theorem opReadScratchpad : Statement .opReadScratchpad := rfl

theorem opRunVerbose : Statement .opRunVerbose := rfl

theorem opRunSummary : Statement .opRunSummary := rfl

theorem opRunQuiet : Statement .opRunQuiet := rfl

theorem opBusPowerOn : Statement .opBusPowerOn := rfl

theorem opBusPowerOff : Statement .opBusPowerOff := rfl

theorem opEndOfTable : Statement .opEndOfTable := rfl

end Sys2Proof.Laws.RowEncoding
end

