-- ==== Sys2Proof/Laws/Step.lean ====
section
/-! SUPPORT. The fetch, input by input, and a run of one step more. -/

namespace Sys2Proof.Machine

theorem fetch_idle {s : State} (h : s.inputs = []) : fetch s = .quiet (s.setRes none) := by
  rw [fetch, h]

theorem fetch_reset {s : State} {rest : List Input} (h : s.inputs = .reset :: rest) :
    fetch s = .quiet (resetBlock { s with inputs := rest }) := by
  rw [fetch, h]

theorem fetch_command {s : State} {w : CmdWord} {env : Env} {rest : List Input} {i : Instr}
    (h : s.inputs = .command w env :: rest) (hd : decode (.command w) = .ok i) :
    fetch s = .run i { s with inputs := rest, env := env } := by
  simp only [fetch, h, hd]

theorem fetch_reserved {s : State} {w : CmdWord} {env : Env} {rest : List Input} {why : Reject}
    (h : s.inputs = .command w env :: rest) (hd : decode (.command w) = .error why) :
    fetch s = .reserved why := by
  simp only [fetch, h, hd]

theorem fetch_constant {s : State} {b : Byte} {rest : List Input} {i : Instr}
    (h : s.inputs = .linkByte b :: rest) (hd : decode (.telegramByte b) = .ok i) :
    fetch s = .run i { s with inputs := rest } := by
  simp only [fetch, h, hd]

theorem fetch_noConstant {s : State} {b : Byte} {rest : List Input} {why : Reject}
    (h : s.inputs = .linkByte b :: rest) (hd : decode (.telegramByte b) = .error why) :
    fetch s = .quiet (carry b { s with inputs := rest }) := by
  simp only [fetch, h, hd]

theorem runs_zero {s s' : State} : Runs 0 s s' ↔ s = s' :=
  ⟨fun h => by cases h; rfl, fun h => by rw [h]; rfl⟩

/-- A run of `k + 1` steps is a step and a run of `k`. -/
theorem runs_succ {k : Nat} {s s' : State} : Runs (k + 1) s s' ↔ ∃ m, step s = .next m ∧ Runs k m s' := by
  have h : Sys2Proof.core.step s = step s := rfl
  simp only [Runs, Host.Core.run, h]
  cases step s <;> simp

end Sys2Proof.Machine
end

