-- ==== Sys2Proof/Tests/Slice0.lean ====
section
/-! SUPPORT. Tests: the decoder on words written out from the tables, each instruction on the worked examples of
`95_test_vectors.md` (its row is named in each docstring), and a witness for the hypotheses of each statement. Expected
values come from the spec, never from the model. -/

open Sys2Proof
open Sys2Proof.Machine

namespace Sys2Proof.Tests

/-! ### Helpers -/

/-- A state after reset, but for the bytes of the two buffers, the three registers, `RX` and the environment. -/
def build (t0 t1 : List Byte) (seq lastErr crcAcc : Byte) (rx : List Byte) (env : Env) : State :=
  { State.reset with
    mem := writeBytes (writeBytes [] 0 t0) 32 t1, seq := seq, lastErr := lastErr, crcAcc := crcAcc, rx := rx,
    env := env }

/-- The environment of the vectors: available, accepting, delivering what `RX` holds. -/
def ready : Env := Env.default

/-- The result and `LASTERR` after one instruction. -/
def outcome (i : Instr) (s : State) : Option (Option Res × Byte) :=
  match exec i s with
  | .next s' => some (s'.res, s'.lastErr)
  | _ => none

/-- The first bytes of a buffer after one instruction. -/
def bufferAfter (i : Instr) (s : State) (t : Buf) (n : Nat) : Option (List Byte) :=
  match exec i s with
  | .next s' => some (bufferBytes s' t 0 n)
  | _ => none

/-- `SEQ`, `CRCACC`, `TX` and `RX` after one instruction. -/
def restAfter (i : Instr) (s : State) : Option (Byte × Byte × List Byte × List Byte) :=
  match exec i s with
  | .next s' => some (s'.seq, s'.crcAcc, s'.tx, s'.rx)
  | _ => none

/-- The telegram of section 3.2. -/
def sampleTelegram : List Byte :=
  [0x04, 0x5A, 0x07, 0x00, 0x09, 0x30, 0x28, 0x01, 0x02, 0x03, 0x04, 0x05, 0x06, 0x07]

/-- The start state of section 3.2. -/
def sample : State := build sampleTelegram [] 0x08 0x00 0x00 [] ready

/-- 25 bytes 0x77, the `T[1]` of section 3.5. -/
def sevens : List Byte := List.replicate 25 0x77

/-- The bytes 1 to `n`. -/
def upTo (n : Nat) : List Byte := (List.range n).map fun i => BitVec.ofNat 8 (i + 1)

/-! ### Well-formedness -/

/-- R74: `idx` 25 to 31 is ill-formed in RDF and WRF, whatever the telegram. -/
theorem test_wellformed_refuses :
    [Instr.rdf 0 25, .rdf 3 31, .wrf 1 25 0xAB, .wrf 0 31 0x00].all (fun i => i.wellFormed == false) = true := by
  decide

/-- Every bound of R73 met: the last cell, the absent telegrams, any value. -/
theorem test_wellformed_accepts :
    [Instr.rdf 3 24, .wrf 2 24 0xFF, .clear 3, .crcbyte 0xFF, .wrerr 0x80, .opEndOfTable].all
      (fun i => i.wellFormed) = true := by
  decide

/-! ### Decoding -/

/-- R76: a word of each command, written bit by bit: `cop`, zeros, `tsel`, `idx`, `V`. -/
theorem test_decode_commands :
    [ (0b0001_00000_01_00000_00000000, Instr.clear 1), (0b0010_00000_01_00001_00000000, .rdf 1 1),
      (0b0010_00000_00_11000_00000000, .rdf 0 24), (0b0011_00000_01_01000_10101011, .wrf 1 8 0xAB),
      (0b0011_00000_00_11000_00010100, .wrf 0 24 0x14), (0b0100_00000_00_00000_00000000, .crcinit),
      (0b0101_00000_00_00000_00110001, .crcbyte 0x31), (0b0110_00000_00_00000_00000000, .crcrd),
      (0b0111_00000_10_00000_00000000, .crct 2), (0b1000_00000_10_00000_00000000, .finalize 2),
      (0b1001_00000_00_00000_00000000, .encode 0), (0b1010_00000_01_00000_00000000, .send 1),
      (0b1011_00000_01_00000_00000000, .decode 1), (0b1100_00000_11_00000_00000000, .verify 3),
      (0b1101_00000_00_00000_00000000, .rdseq), (0b1110_00000_00_00000_00000000, .rderr),
      (0b1111_00000_00_00000_11111011, .wrerr 0xFB) ].all
      (fun p => decodeTableWord 24 p.1 == some p.2) = true := by
  decide

/-- R66: the byte of each telegram opcode. -/
theorem test_decode_opcodes :
    [ (0x01, Instr.opFirmwareVersion), (0x02, .opHardwareVersion), (0x03, .opProtocolVersion),
      (0x04, .opResponseMarker), (0x05, .opHangup), (0x06, .opResend), (0x30, .opSensorIdFirst),
      (0x31, .opSensorIdNext), (0x32, .opTemperatureFirst), (0x33, .opTemperatureNext),
      (0x34, .opTemperatureById), (0x35, .opDataBlockFirst), (0x36, .opDataBlockNext), (0x37, .opDataBlockById),
      (0x38, .opResolutionGetFirst), (0x39, .opResolutionGetNext), (0x3A, .opResolutionGetById),
      (0x3B, .opResolutionSetFirst), (0x3C, .opResolutionSetNext), (0x3D, .opResolutionSetById),
      (0x40, .opBusReset), (0x41, .opBusResetSearch), (0x42, .opBusSelectId), (0x43, .opParasiticConversion),
      (0x44, .opNoParasiticConversion), (0x45, .opReadScratchpad), (0x46, .opRunVerbose), (0x47, .opRunSummary),
      (0x48, .opRunQuiet), (0x4E, .opBusPowerOn), (0x4F, .opBusPowerOff), (0xFF, .opEndOfTable) ].all
      (fun p => decodeTableWord 8 p.1 == some p.2) = true := by
  decide

/-- The reserved words of section 3.1, each with the test of R77 that it fails. -/
theorem test_decode_reserved :
    [ (0x000000, Reject.reservedCop), (0x0FFFFF, .reservedCop), (0xA00001, .mustBeZero), (0x402000, .mustBeZero),
      (0x110000, .mustBeZero), (0x108000, .mustBeZero), (0x201900, .indexRange), (0x301F00, .indexRange),
      (0x307900, .indexRange), (0x2000FF, .mustBeZero), (0xD00001, .mustBeZero) ].all
      (fun p => match decode (.command (BitVec.ofNat 24 p.1)) with
        | .error why => why == p.2
        | .ok _ => false) = true := by
  decide

/-- R67: bytes 0x00, 0x07 and 0x99 have no constant. -/
theorem test_decode_no_constant :
    [0x00, 0x07, 0x49, 0x99, 0xFE].all (fun n => decodeTableWord 8 n == none) = true := by
  decide

/-- R82, R84: the assembly of four words of section 3.1. -/
theorem test_assembly :
    showInstr (.clear 3) = "CLEAR T3" ∧ showInstr (.rdf 0 24) = "RDF T0[24]" ∧
      showInstr (.wrf 1 8 0xAB) = "WRF T1[8], 171" ∧ showInstr .crcinit = "CRCINIT" := by
  decide

/-! ### The checksum -/

/-- Section 2.1: the catalogue check value, a 1-Wire ROM code, the address response, 20 bytes, order, and no bytes. -/
theorem test_crc8_values :
    crc8 [0x31, 0x32, 0x33, 0x34, 0x35, 0x36, 0x37, 0x38, 0x39] = 0xA1 ∧
      crc8 [0x02, 0x1C, 0xB8, 0x01, 0x00, 0x00, 0x00] = 0xA2 ∧
      crc8 [0x30, 0x28, 0x01, 0x02, 0x03, 0x04, 0x05, 0x06, 0x07] = 0x5A ∧ crc8 (upTo 20) = 0x2E ∧
      crc8 [0x01, 0x02] = 0x78 ∧ crc8 [0x02, 0x01] = 0xCF ∧ crc8 [] = 0x00 := by
  decide +kernel

/-- Section 2.2: row 3x of the table. -/
theorem test_crc8_table_row :
    ((List.range 16).map fun i => crc8 [BitVec.ofNat 8 (0x30 + i)]) =
      [0xBE, 0xE0, 0x02, 0x5C, 0xDF, 0x81, 0x63, 0x3D, 0x7C, 0x22, 0xC0, 0x9E, 0x1D, 0x43, 0xA1, 0xFF] := by
  decide

/-- Section 2.3: the trace of byte 0x31, register after register. -/
theorem test_crc_bit_trace :
    crcBit 0x00 true = 0x8C ∧ crcBit 0x8C false = 0x46 ∧ crcBit 0x46 false = 0x23 ∧ crcBit 0x23 false = 0x9D ∧
      crcBit 0x9D true = 0x4E ∧ crcBit 0x4E true = 0xAB ∧ crcBit 0xAB false = 0xD9 ∧ crcBit 0xD9 false = 0xE0 := by
  decide

/-! ### The telegram model commands -/

/-- M1. -/
theorem test_clear : bufferAfter (.clear 0) sample .t0 25 = some (List.replicate 25 0x00) ∧
    restAfter (.clear 0) sample = some (0x08, 0x00, [], []) := by
  decide

/-- M3. -/
theorem test_clear_absent : outcome (.clear 2) sample = some (some ⟨0xF8, false, 0x00⟩, 0xF8) ∧
    bufferAfter (.clear 2) sample .t0 14 = some sampleTelegram := by
  decide

/-- M4, M6. -/
theorem test_rdf : outcome (.rdf 0 1) sample = some (some ⟨0x00, false, 0x5A⟩, 0x00) ∧
    outcome (.rdf 0 24) sample = some (some ⟨0x00, false, 0x00⟩, 0x00) := by
  decide

/-- M7. -/
theorem test_rdf_absent : outcome (.rdf 3 0) sample = some (some ⟨0xF8, false, 0x00⟩, 0xF8) := by
  decide

/-- M9: stored, not clamped. -/
theorem test_wrf_arg_cnt :
    bufferAfter (.wrf 0 4 0xFF) sample .t0 6 = some [0x04, 0x5A, 0x07, 0x00, 0xFF, 0x30] ∧
      outcome (.wrf 0 4 0xFF) sample = some (some ⟨0x00, false, 0x00⟩, 0x00) := by
  decide

/-- M10: the stored checksum goes stale. -/
theorem test_wrf_args :
    bufferAfter (.wrf 0 8 0x03) sample .t0 9 = some [0x04, 0x5A, 0x07, 0x00, 0x09, 0x30, 0x28, 0x01, 0x03] := by
  decide

/-! ### The checksum commands -/

/-- K1. -/
theorem test_crcinit : restAfter .crcinit (build [] [] 0 0 0x37 [] ready) = some (0x00, 0x00, [], []) := by
  decide

/-- K3, K4. -/
theorem test_crcbyte :
    outcome (.crcbyte 0x5E) (build [] [] 0 0 0x5E [] ready) = some (some ⟨0x00, false, 0x00⟩, 0x00) ∧
      restAfter (.crcbyte 0x32) (build [] [] 0 0 0xE0 [] ready) = some (0x00, 0xEB, [], []) := by
  decide

/-- K6. -/
theorem test_crcrd : outcome .crcrd (build [] [] 0 0 0xA1 [] ready) = some (some ⟨0x00, false, 0xA1⟩, 0x00) := by
  decide

/-- K9: the accumulator is left. -/
theorem test_crct : outcome (.crct 0) { sample with crcAcc := 0x77 } = some (some ⟨0x00, false, 0x5A⟩, 0x00) ∧
    restAfter (.crct 0) { sample with crcAcc := 0x77 } = some (0x08, 0x77, [], []) := by
  decide +kernel

/-- K11: the first 20 bytes. -/
theorem test_crct_oversized :
    outcome (.crct 0) (build ([0, 0, 0, 0, 0xFF] ++ upTo 20) [] 0 0 0 [] ready) =
      some (some ⟨0x00, false, 0x2E⟩, 0x00) := by
  decide +kernel

/-! ### The codec -/

/-- F6: clamped from 21, with the warning, and nothing sent. -/
theorem test_finalize_clamps :
    bufferAfter (.finalize 0) (build ([0x37, 0, 0, 0, 0x15] ++ upTo 20) [] 0 0 0 [] ready) .t0 25 =
      some ([0x37, 0x2E, 0x00, 0x01, 0x14] ++ upTo 20) ∧
    outcome (.finalize 0) (build ([0x37, 0, 0, 0, 0x15] ++ upTo 20) [] 0 0 0 [] ready) =
      some (some ⟨0x01, true, 0x00⟩, 0x01) := by
  decide +kernel

/-- F7: the sentinel replaces a stored 77. -/
theorem test_finalize_no_arguments :
    bufferAfter (.finalize 0) (build [0x32, 0x77] [] 0x05 0 0 [] ready) .t0 5 = some [0x32, 0x00, 0x05, 0x00, 0x00] ∧
      restAfter (.finalize 0) (build [0x32, 0x77] [] 0x05 0 0 [] ready) = some (0x06, 0x00, [], []) := by
  decide

/-- F3: the number FF, and `SEQ` wraps. -/
theorem test_send_wraps :
    restAfter (.send 0) (build [0x04, 0, 0, 0, 1, 1] [] 0xFF 0 0 [] ready) =
      some (0x00, 0x00, [0x04, 0x5E, 0xFF, 0x00, 0x01, 0x01], []) := by
  decide

/-- F19: the warning gives way to the failure, and stands in the buffer. -/
theorem test_send_unavailable :
    outcome (.send 0) (build ([0x35, 0, 0, 0xFD, 0x19] ++ upTo 20) [] 0x10 0 0 [] { ready with txAvail := false }) =
      some (some ⟨0xFF, true, 0x00⟩, 0xFF) ∧
    bufferAfter (.send 0) (build ([0x35, 0, 0, 0xFD, 0x19] ++ upTo 20) [] 0x10 0 0 [] { ready with txAvail := false })
      .t0 5 = some [0x35, 0x2E, 0x10, 0x01, 0x14] := by
  decide +kernel

/-- F15: what ENCODE sends is what the buffer holds, a stale checksum too. -/
theorem test_encode : restAfter (.encode 0) sample = some (0x08, 0x00, sampleTelegram, []) := by
  decide

/-- F17, and F18: an unavailable transport, and a count of 21 without a FINALIZE. -/
theorem test_encode_stops :
    outcome (.encode 0) (build [0x30] [] 0 0 0 [] { ready with txAvail := false }) =
      some (some ⟨0xFF, false, 0x00⟩, 0xFF) ∧
    outcome (.encode 0) (build [0x30, 0, 0, 0, 0x15] [] 0 0 0 [] ready) = none := by
  decide

/-- D6: 22 arguments announced, 20 taken, the warning, and two bytes left. -/
theorem test_decode_oversized :
    bufferAfter (.decode 1) (build [] sevens 0 0 0 ([0x36, 0x4E, 0x09, 0x00, 0x16] ++ upTo 22) ready) .t1 25 =
      some ([0x36, 0x4E, 0x09, 0x00, 0x14] ++ upTo 20) ∧
    restAfter (.decode 1) (build [] sevens 0 0 0 ([0x36, 0x4E, 0x09, 0x00, 0x16] ++ upTo 22) ready) =
      some (0x00, 0x00, [], [0x15, 0x16]) := by
  decide +kernel

/-- D8: a timeout in the arguments leaves an empty telegram and loses what had arrived. -/
theorem test_decode_timeout :
    bufferAfter (.decode 1) (build [] sevens 0 0 0 [0x04, 0x5A, 0x07, 0x00, 0x09, 0x30, 0x28] ready) .t1 25 =
      some (List.replicate 25 0x00) ∧
    outcome (.decode 1) (build [] sevens 0 0 0 [0x04, 0x5A, 0x07, 0x00, 0x09, 0x30, 0x28] ready) =
      some (some ⟨0xFD, false, 0x00⟩, 0xFD) := by
  decide

/-- D2v: a damaged argument. -/
theorem test_verify_mismatch :
    outcome (.verify 1)
        (build [] [0x04, 0x5A, 0x07, 0x00, 0x09, 0x30, 0x28, 0x01, 0x03, 0x03, 0x04, 0x05, 0x06, 0x07] 0 0 0 [] ready) =
      some (some ⟨0xFC, false, 0x6D⟩, 0xFC) := by
  decide +kernel

/-- W2, W3: a stored 00 is never a mismatch; only the first 20 bytes count. -/
theorem test_verify_accepts :
    outcome (.verify 0) (build [0x32, 0x00, 0x05, 0x00, 0x03, 0xAA, 0xBB, 0xCC] [] 0 0 0 [] ready) =
      some (some ⟨0x00, true, 0xD4⟩, 0x00) ∧
    outcome (.verify 0) (build ([0, 0x2E, 0, 0, 0xFF] ++ upTo 20) [] 0 0 0 [] ready) =
      some (some ⟨0x00, true, 0x2E⟩, 0x00) := by
  decide +kernel

/-! ### The session register commands -/

/-- X1. -/
theorem test_rdseq : outcome .rdseq (build [] [] 0x2B 0 0 [] ready) = some (some ⟨0x00, false, 0x2B⟩, 0x00) := by
  decide

/-- X2: reading does not clear. -/
theorem test_rderr : outcome .rderr (build [] [] 0 0xFC 0 [] ready) = some (some ⟨0x00, false, 0xFC⟩, 0xFC) := by
  decide

/-- X5: recording is not signalling. -/
theorem test_wrerr : outcome (.wrerr 0xFB) (build [] [] 0 0 0 [] ready) = some (some ⟨0x00, false, 0x00⟩, 0xFB) := by
  decide

/-! ### Steps -/

/-- Every telegram opcode, placed where the step fetches, waits in `RX` after one step (assumption 1), and so does a
byte without a constant. -/
theorem test_step_telegram_bytes :
    [0x01, 0x05, 0x30, 0x42, 0x4F, 0xFF].all (fun n =>
      match step (State.reset.withFetchWord 8 n) with
      | .next s => s.rx == [BitVec.ofNat 8 n] && s.res == none && s.mem == []
      | _ => false) = true := by
  decide

/-- A command word placed where the step fetches runs as the first command after reset: WRF T1[8], 0xAB. -/
theorem test_step_first_command :
    (match step (State.reset.withFetchWord 24 0x3028AB) with
      | .next s => s.mem == [(40, 0xAB)] && s.inputs == []
      | _ => false) = true := by
  decide

/-- The reserved word 0x307900 is refused by name. -/
theorem test_step_reserved :
    (match step (State.reset.withFetchWord 24 0x307900) with
      | .refused why => decide (why = .reservedWord .indexRange)
      | _ => false) = true := by
  decide

/-! ### Witnesses: the hypotheses of each statement can be met, each clause at a boundary of its range -/

/-- A state with what the outside presents. -/
def presented (xs : List Input) : State := { State.reset with inputs := xs }

/-- A state with an environment and bytes in `RX`. -/
def receiving (env : Env) (rx : List Byte) : State := build [] sevens 0 0 0 rx env

/-- Whether an instruction completes. -/
def completes (i : Instr) (s : State) : Bool :=
  match exec i s with
  | .next _ => true
  | _ => false

theorem completes_next {i : Instr} {s : State} (h : completes i s = true) : ∃ s', exec i s = .next s' := by
  rw [completes] at h
  split at h
  · exact ⟨_, by assumption⟩
  · simp at h

/-- Both sides of the table's equivalence: a word of a row at the last index, and a word of none. -/
theorem witness_CommandWordsDecodeByTheTable :
    decode (.command 0x3078FF) = .ok (.wrf 3 24 0xFF) ∧ decode (.command 0x307900) = .error .indexRange :=
  ⟨rfl, rfl⟩

theorem witness_DecodeInvertsEncode : WellFormed (.wrf 3 24 0xFF) ∧ WellFormed (.rdf 2 0) ∧ WellFormed .opEndOfTable := by
  decide

theorem witness_EncodeInvertsDecode :
    decode (.command 0x3078FF) = .ok (.wrf 3 24 0xFF) ∧ decode (.telegramByte 0xFF) = .ok .opEndOfTable :=
  ⟨rfl, rfl⟩

theorem witness_ReservedWordsAreRefused :
    (presented [.command 0x307900 ready]).inputs = .command 0x307900 ready :: [] ∧
      (0x0FFFFF : CmdWord).extractLsb' 20 4 = 0 := by
  decide

theorem witness_StepRunsTheDecodedInstruction :
    ((presented [.command 0xA04000 ready]).inputs = .command 0xA04000 ready :: [] ∧
      decode (.command 0xA04000) = .ok (.send 2)) ∧
    (presented [.linkByte 0x42]).inputs = .linkByte 0x42 :: [] ∧ decode (.telegramByte 0x42) = .ok .opBusSelectId :=
  ⟨⟨rfl, rfl⟩, rfl, rfl⟩

theorem witness_DeliveredByteWaitsInTheTransport : (presented [.linkByte 0x99]).inputs = .linkByte 0x99 :: [] := rfl

theorem witness_ResetStepRestoresTheResetState :
    ({ sample with inputs := [.reset] } : State).inputs = .reset :: [] := rfl

/-- A state that is not the reset state, and a step of each kind from it. -/
theorem witness_StepKeepsTheInvariant :
    Inv { sample with inputs := [.command 0xA00000 ready] } ∧
    ∃ s', step { sample with inputs := [.command 0xA00000 ready] } = .next s' :=
  ⟨⟨rfl, rfl⟩, _, rfl⟩

/-- Both refusals that the statement names. -/
theorem witness_StepStopsExactly :
    step (presented [.command 0x0FFFFF ready]) = .refused (.reservedWord .reservedCop) ∧
    step { build [0, 0, 0, 0, 0x15] [] 0 0 0 [] ready with inputs := [.command 0x900000 ready] } =
      .refused (.encodeOversized 0x15) :=
  ⟨rfl, rfl⟩

/-- ENCODE of the longest frame meets the condition. -/
theorem witness_WellFormedInstructionsComplete :
    WellFormed (.encode 0) ∧
    ∀ tsel t, Instr.encode 0 = .encode tsel → telegram tsel = some t →
      ((build [0, 0, 0, 0, 0x14] [] 0 0 0 [] ready).field t .argCnt).toNat ≤ 20 := by
  refine ⟨by decide, ?_⟩
  intro tsel t h ht
  cases h
  cases ht
  decide

/-- Both absent telegrams, and the first and last index. -/
theorem witness_AbsentTelegramRaisesNullReference :
    2 ≤ (2 : BitVec 2).toNat ∧ 2 ≤ (3 : BitVec 2).toNat ∧ (0 : BitVec 5).toNat ≤ 24 ∧ (24 : BitVec 5).toNat ≤ 24 ∧
      Instr.verify 3 ∈ [Instr.clear 3, .rdf 3 24, .wrf 3 24 0, .crct 3, .finalize 3, .encode 3, .send 3, .decode 3,
        .verify 3] := by
  decide

theorem witness_StatusValuesAreTheTable :
    ((-128 : Int) ≤ -128 ∧ (-128 : Int) ≤ 127) ∧ (-128 : Int) ≤ 127 ∧ (127 : Int) ≤ 127 := by
  decide

/-- The two clauses of every statement with a telegram operand: both absent selectors, both present ones. -/
theorem witness_telegram_operand :
    2 ≤ (2 : BitVec 2).toNat ∧ 2 ≤ (3 : BitVec 2).toNat ∧ telegram 0 = some .t0 ∧ telegram 1 = some .t1 := by
  decide

theorem witness_ClearZeroesItsBuffer :
    2 ≤ (3 : BitVec 2).toNat ∧ telegram 1 = some .t1 ∧ 24 < 25 ∧ ¬ (Buf.t1.base ≤ 31 ∧ 31 < Buf.t1.base + 25) := by
  decide

theorem witness_RdfAnswersTheByte :
    (24 : BitVec 5).toNat ≤ 24 ∧ 2 ≤ (2 : BitVec 2).toNat ∧ telegram 1 = some .t1 := by
  decide

theorem witness_WrfStoresTheByte :
    (24 : BitVec 5).toNat ≤ 24 ∧ 2 ≤ (2 : BitVec 2).toNat ∧ telegram 0 = some .t0 ∧
      23 ≠ Buf.t0.base + (24 : BitVec 5).toNat := by
  decide

/-- The hypotheses of laws (b), (e) and (h). -/
theorem witness_ChecksumLaws :
    crc8 [0x5E] = crc8 [0x5E] ∧ ([0x12, 0x34, 0x56] : List Byte).length = ([0xF0, 0x0F, 0xAA] : List Byte).length ∧
      7 < 8 := by
  decide

theorem witness_CrctAnswersTheArgumentChecksum : 2 ≤ (2 : BitVec 2).toNat ∧ telegram 0 = some .t0 := by decide

/-- CRCINIT, then a byte, a CLEAR, a byte on the link and another byte. -/
def streamRun : List Input :=
  [.command 0x500031 ready, .command 0x100000 ready, .linkByte 0x30, .command 0x500032 ready]

theorem witness_StreamedChecksumIgnoresOtherCommands :
    (presented (.command 0x400000 ready :: streamRun)).inputs.take (streamRun.length + 1) =
      .command 0x400000 ready :: streamRun ∧
    (Input.command 0x400000 ready).restartsStream = true ∧ (∀ x ∈ streamRun, x.restartsStream = false) ∧
    ∃ s', Runs (streamRun.length + 1) (presented (.command 0x400000 ready :: streamRun)) s' :=
  ⟨rfl, by decide, by decide, _, rfl⟩

theorem witness_FinalizeClampsChecksumsAndNumbers :
    2 ≤ (3 : BitVec 2).toNat ∧ telegram 0 = some .t0 ∧ ¬ (Buf.t0.base + 1 ≤ 5 ∧ 5 ≤ Buf.t0.base + 4) := by
  decide

theorem witness_SecondFinalizeTakesANewNumber : telegram 1 = some .t1 ∧ 35 ≠ Buf.t1.base + 2 := by decide

/-- The longest frame, in each of the three environments; and the absent telegram. -/
theorem witness_EncodeAppendsTheFrame :
    2 ≤ (2 : BitVec 2).toNat ∧ telegram 0 = some .t0 ∧
      ((build [0, 0, 0, 0, 0x14] [] 0 0 0 [] ready).byte .t0 4).toNat ≤ 20 ∧
      (ready.txAvail = true ∧ ready.txWrite = .ok) ∧ ({ ready with txAvail := false } : Env).txAvail = false ∧
      ({ ready with txWrite := .fail 25 } : Env).txAvail = true ∧
      ({ ready with txWrite := .fail 25 } : Env).txWrite = .fail 25 := by
  decide

/-- A count of 21, and of 255. -/
theorem witness_OversizedEncodeIsRefusedAndSendIsSafe :
    telegram 0 = some .t0 ∧ 20 < ((build [0, 0, 0, 0, 0x15] [] 0 0 0 [] ready).byte .t0 4).toNat ∧
      20 < ((build [0, 0, 0, 0, 0xFF] [] 0 0 0 [] ready).byte .t0 4).toNat := by
  decide

theorem witness_SendFinalizesAndTransmits :
    2 ≤ (3 : BitVec 2).toNat ∧ telegram 1 = some .t1 ∧ ¬ (Buf.t1.base + 1 ≤ 32 ∧ 32 ≤ Buf.t1.base + 4) ∧
      (sample.env.txAvail = true ∧ sample.env.txWrite = .ok) ∧
      ({ sample with env := { ready with txAvail := false } } : State).env.txAvail = false ∧
      ({ sample with env := { ready with txWrite := .fail 0 } } : State).env.txWrite = .fail 0 := by
  decide

theorem witness_SendIsFinalizeThenEncode : telegram 0 = some .t0 := rfl

/-- The frame of a header with no arguments, with 20, with 21, and with 255. -/
theorem witness_DecodeDeliversTheFrame :
    telegram 1 = some .t1 ∧ (receiving ready []).env.rxAvail = true ∧ (receiving ready []).env.header = .arrive ∧
      (receiving ready []).env.args = .arrive ∧ ([] : List Byte).length = min (0x00 : Byte).toNat 20 ∧
      (upTo 20).length = min (0x14 : Byte).toNat 20 ∧ (upTo 20).length = min (0x15 : Byte).toNat 20 ∧
      (upTo 20).length = min (0xFF : Byte).toNat 20 ∧
      (receiving ready ([4, 0, 7, 0, 0xFF] ++ upTo 20 ++ [0x15])).rx = [4, 0, 7, 0, 0xFF] ++ upTo 20 ++ [0x15] := by
  decide

/-- Each of the five ways to fail: an unavailable transport; a timeout and a failure at the header, after the most and
the fewest bytes; the same two at the arguments, of a header that announces 1, and 255. -/
theorem witness_FailedDecodeLeavesAnEmptyTelegram :
    telegram 0 = some .t0 ∧ ready.rxAvail = true ∧ ready.header = .arrive ∧
    (receiving { ready with rxAvail := false } [4]).env.rxAvail = false ∧
    (4 < 5 ∧ (receiving { ready with header := .timeout 4 } [4, 4, 4, 4, 4]).env.header = .timeout 4) ∧
    (0 < 5 ∧ (receiving { ready with header := .fail 0 } [4]).env.header = .fail 0) ∧
    ((receiving { ready with args := .timeout 0 } [4, 0, 7, 0, 1, 9]).rx = [4, 0, 7, 0, 1] ++ [9] ∧
      0 < min (1 : Byte).toNat 20 ∧
      (receiving { ready with args := .timeout 0 } [4, 0, 7, 0, 1, 9]).env.args = .timeout 0) ∧
    (receiving { ready with args := .fail 19 } [4, 0, 7, 0, 0xFF]).rx = [4, 0, 7, 0, 0xFF] ++ [] ∧
    19 < min (0xFF : Byte).toNat 20 ∧
    (receiving { ready with args := .fail 19 } [4, 0, 7, 0, 0xFF]).env.args = .fail 19 := by
  decide

/-- D10, D9 with 4 bytes, and D7: no byte at all, a header cut short, and arguments that do not come. -/
theorem witness_ShortStreamTimesOut :
    telegram 1 = some .t1 ∧ ready.rxAvail = true ∧ ready.header = .arrive ∧ ready.args = .arrive ∧
    (receiving ready []).rx.length < 5 ∧ (receiving ready [4, 0x5A, 7, 0]).rx.length < 5 ∧
    (receiving ready [4, 0x5A, 7, 0, 1]).rx = [4, 0x5A, 7, 0, 1] ++ [] ∧
    ([] : List Byte).length < min (1 : Byte).toNat 20 := by
  decide

theorem witness_FramesRoundTrip :
    telegram 0 = some .t0 ∧ telegram 1 = some .t1 ∧ (receiving ready []).env = ready ∧ (0x14 : Byte).toNat ≤ 20 ∧
      (upTo 20).length = (0x14 : Byte).toNat ∧
      (receiving ready ([4, 0x99, 7, 0, 0x14] ++ upTo 20 ++ [])).rx = [4, 0x99, 7, 0, 0x14] ++ upTo 20 ++ [] ∧
      (sample.byte .t0 4).toNat ≤ 20 ∧ sample.env.txAvail = true ∧ sample.env.txWrite = .ok := by
  decide

/-- A stored sentinel, a stored checksum that agrees, and one that does not. -/
theorem witness_VerifyJudgesTheChecksum :
    2 ≤ (3 : BitVec 2).toNat ∧ telegram 0 = some .t0 ∧ (build [] [] 0 0 0 [] ready).byte .t0 1 = 0x00 ∧
      sample.byte .t0 1 = crc8 (bufferBytes sample .t0 5 (min (sample.byte .t0 4).toNat 20)) ∧
      (build [0, 0x77] [] 0 0 0 [] ready).byte .t0 1 ≠ 0x00 ∧
      (build [0, 0x77] [] 0 0 0 [] ready).byte .t0 1 ≠ crc8 [] := by
  decide +kernel

theorem witness_ArgCountIsBoundedAfterTheCodec :
    telegram 1 = some .t1 ∧ Instr.decode 1 ∈ [Instr.finalize 1, .send 1, .decode 1] := by
  decide

/-- FINALIZE T0, RDSEQ, then SEND T1, which is the third input. -/
def sequenceRun : List Input := [.command 0x800000 ready, .command 0xD00000 ready, .command 0xA02000 ready]

theorem witness_SequenceNumbersAreConsecutive :
    (∃ s', Runs 2 (presented sequenceRun) s') ∧ Input.reset ∉ (presented sequenceRun).inputs.take 2 ∧
    (∃ s', Runs (2 + 1) (presented sequenceRun) s') ∧
    (presented sequenceRun).inputs[2]? = some (.command 0xA02000 ready) ∧
    decode (.command 0xA02000) = .ok (.send 1) ∧ telegram 1 = some .t1 :=
  ⟨⟨_, rfl⟩, by decide, ⟨_, rfl⟩, rfl, rfl, rfl⟩

/-- A step that signals, a WRERR, a reset, and a step that does none of the three. -/
theorem witness_LastErrorKeepsTheLastCondition :
    (∃ s', step (presented [.command 0x104000 ready]) = .next s') ∧
    (∃ s', step (presented [.command 0xF000FB ready]) = .next s') ∧ (∃ s', step (presented [.reset]) = .next s') ∧
    ∃ s', step (presented []) = .next s' :=
  ⟨⟨_, rfl⟩, ⟨_, rfl⟩, ⟨_, rfl⟩, _, rfl⟩

theorem witness_OpcodeConstantsAreCarried :
    encode .opFirmwareVersion = .telegramByte 0x01 ∧ encode .opEndOfTable = .telegramByte 0xFF :=
  ⟨rfl, rfl⟩

/-- Each of the five commands completes on the sample telegram. -/
theorem witness_StoredOpcodeIsNotInterpreted :
    telegram 0 = some .t0 ∧
    ∀ i ∈ [Instr.finalize 0, .encode 0, .send 0, .decode 0, .verify 0], ∃ s', exec i sample = .next s' := by
  refine ⟨rfl, fun i h => completes_next ?_⟩
  simp only [List.mem_cons, List.not_mem_nil, or_false] at h
  rcases h with rfl | rfl | rfl | rfl | rfl <;> decide +kernel

theorem witness_ReceivedOpcodeIsNotInterpreted :
    telegram 1 = some .t1 ∧ (receiving ready [0xFF, 0, 2, 0x7F, 0]).rx = 0xFF :: [0, 2, 0x7F, 0] ∧
    ∃ s', exec (.decode 1) (receiving ready [0xFF, 0, 2, 0x7F, 0]) = .next s' :=
  ⟨rfl, rfl, completes_next (by decide +kernel)⟩

/-- An address outside the written buffer, and an instruction that writes none. -/
theorem witness_OnlyTheNamedBufferIsWritten :
    (∃ s', exec (.wrf 1 24 0x77) sample = .next s') ∧
    (∀ t, writtenBuffer (.wrf 1 24 0x77) = some t → ¬ (t.base ≤ 24 ∧ 24 < t.base + 25)) ∧
    (∃ s', exec (.rdf 0 0) sample = .next s') ∧ writtenBuffer (.rdf 0 0) = none := by
  refine ⟨completes_next (by decide +kernel), ?_, completes_next (by decide +kernel), rfl⟩
  intro t h
  cases h
  decide

theorem witness_StreamsAreReachedOnlyByTheCodec :
    decode (.command 0xD00000) = .ok .rdseq ∧ (∃ s', exec .rdseq sample = .next s') ∧
    (∀ tsel, Instr.rdseq ≠ .encode tsel ∧ Instr.rdseq ≠ .send tsel) ∧ ∀ tsel, Instr.rdseq ≠ .decode tsel :=
  ⟨rfl, ⟨_, rfl⟩, by simp, by simp⟩

theorem witness_PseudoCommandsDoTheirWork :
    telegram 0 = some .t0 ∧ (upTo 20).length ≤ 20 ∧ ([] : List Byte).length ≤ 20 := by
  decide

end Sys2Proof.Tests
end

section
/-! SUPPORT. Proofs of the statements of `00_scope.md`: what ends a command (R8, R49, R128), what a step runs (R8), and
the signed reading of a status value (R6, R64, R65). -/

namespace Sys2Proof.Machine

/-! ### A step that has fetched an instruction -/

theorem step_of_fetch_run {s s' : State} {i : Instr} (h : fetch s = .run i s') : step s = exec i s' := by
  rw [step, h]

/-- Settles O6: the fetch takes the input and decodes it, and the step does nothing around `exec`. -/
theorem stepRunsTheDecodedInstruction : Obligations.StepRunsTheDecodedInstruction := by
  intro s i rest
  exact ⟨fun w env hin hdec => step_of_fetch_run (fetch_command hin hdec),
    fun b hin hdec => step_of_fetch_run (fetch_constant hin hdec)⟩

/-! ### Signed bytes (R6) -/

@[simp] theorem u8_s8 (v : Byte) : u8 (s8 v) = v := BitVec.ofInt_toInt

/-- `s8` undoes `u8` on the values that an `s8` can hold. -/
theorem s8_u8 {n : Int} (lo : -128 ≤ n) (hi : n ≤ 127) : s8 (u8 n) = n := by
  rw [s8, u8, BitVec.toInt_ofInt]
  exact Int.bmod_eq_of_le (by omega) (by omega)

/-- Settles O17: the ten values of R64 are `u8` of the table's number, read back by `s8_u8`; TransportFailure is the
pattern 0xFF of R65. -/
theorem statusValuesAreTheTable : Obligations.StatusValuesAreTheTable := by
  have transportFailure : s8 (statusCode .transportFailure) = -1 := by decide
  refine ⟨?_, ?_, ?_, ?_, ?_, ?_, ?_, ?_, ?_, ?_, transportFailure, u8_s8, fun _ => s8_u8⟩ <;>
    exact s8_u8 (by decide) (by decide)

/-! ### What completes -/

/-- A telegram operand does not keep a command from completing: an absent telegram ends it with NullReference (R90). -/
theorem withTelegram_completes {tsel : BitVec 2} {s : State} {body : Buf → Result}
    (h : ∀ t, telegram tsel = some t → ∃ s', body t = .next s') : ∃ s', withTelegram tsel s body = .next s' := by
  rcases telegram_cases tsel with ⟨t, ht⟩ | hnone
  · rw [withTelegram_some ht]
    exact h t ht
  · exact ⟨_, withTelegram_none hnone s body⟩

/-- A failing transport ends a transmission with TransportFailure, and does not stop it (R126, R127). -/
theorem transmit_completes (t : Buf) (r : Res) (s : State) : ∃ s', transmit t r s = .next s' := by
  rcases transmit_cases t r s with ⟨-, -, sent⟩ | ⟨-, unavailable⟩ | ⟨_, -, -, failed⟩
  · exact ⟨_, sent⟩
  · exact ⟨_, unavailable⟩
  · exact ⟨_, failed⟩

/-- RDF of an index in range completes (R74, R92). -/
theorem execRdf_completes (tsel : BitVec 2) {idx : BitVec 5} (hidx : indexInBuffer idx = true) (s : State) :
    ∃ s', execRdf tsel idx s = .next s' := by
  rw [execRdf, withIndex_of_inBuffer hidx]
  exact withTelegram_completes fun _ _ => ⟨_, finish_eq _ _⟩

/-- WRF to an index in range completes (R74, R93). -/
theorem execWrf_completes (tsel : BitVec 2) {idx : BitVec 5} (v : Byte) (hidx : indexInBuffer idx = true)
    (s : State) : ∃ s', execWrf tsel idx v s = .next s' := by
  rw [execWrf, withIndex_of_inBuffer hidx]
  exact withTelegram_completes fun _ _ => ⟨_, finish_eq _ _⟩

/-- ENCODE completes unless its telegram is present with an `arg_cnt` above 20 (R128). -/
theorem execEncode_completes {tsel : BitVec 2} {s : State}
    (h : ∀ t, telegram tsel = some t → (s.field t .argCnt).toNat ≤ 20) : ∃ s', execEncode tsel s = .next s' := by
  refine withTelegram_completes fun t ht => ?_
  have fits : ¬ exceedsCapacity (s.field t .argCnt) = true := by
    rw [exceedsCapacity_iff]
    exact Nat.not_lt.mpr (h t ht)
  rw [if_neg fits]
  exact transmit_completes t Res.initial s

/-- VERIFY completes on both of its outcomes (R137). -/
theorem execVerify_completes (tsel : BitVec 2) (s : State) : ∃ s', execVerify tsel s = .next s' := by
  refine withTelegram_completes fun t _ => ?_
  split
  · exact ⟨_, finish_eq _ _⟩
  · exact ⟨_, raise_eq _ _ _⟩

/-- An instruction whose code unit is a telegram byte has that byte carried (R68). -/
theorem exec_of_encode_telegramByte {i : Instr} {b : Byte} (h : encode i = .telegramByte b) (s : State) :
    exec i s = .next (carry b s) := by
  cases i <;> cases h <;> rfl

/-- Settles O14, by cases on the instruction: a command ends with its result or by raising, RDF and WRF have
their index in range, the bound on `arg_cnt` shuts out the one refusal, and a telegram opcode is carried. -/
theorem wellFormedInstructionsComplete : Obligations.WellFormedInstructionsComplete := by
  intro i s hwf hfits
  cases i with
  | clear tsel => exact withTelegram_completes fun _ _ => ⟨_, finish_eq _ _⟩
  | rdf tsel idx => exact execRdf_completes tsel hwf s
  | wrf tsel idx v => exact execWrf_completes tsel v hwf s
  | crcinit => exact ⟨_, finish_eq _ _⟩
  | crcbyte v => exact ⟨_, finish_eq _ _⟩
  | crcrd => exact ⟨_, finish_eq _ _⟩
  | crct tsel => exact withTelegram_completes fun _ _ => ⟨_, finish_eq _ _⟩
  | finalize tsel => exact withTelegram_completes fun _ _ => ⟨_, finish_eq _ _⟩
  | encode tsel => exact execEncode_completes fun t ht => hfits tsel t rfl ht
  | send tsel => exact withTelegram_completes fun _ _ => transmit_completes _ _ _
  | decode tsel => exact withTelegram_completes fun _ _ => receive_completes _ _
  | verify tsel => exact execVerify_completes tsel s
  | rdseq => exact ⟨_, finish_eq _ _⟩
  | rderr => exact ⟨_, finish_eq _ _⟩
  | wrerr v => exact ⟨_, finish_eq _ _⟩
  | _ => exact ⟨_, exec_of_encode_telegramByte rfl s⟩

end Sys2Proof.Machine
end

section
/-! SUPPORT. Proofs of the statements of `10_state.md`: the state after reset (R25), the selectors (R10), what an
instruction does to `SEQ`, `CRCACC`, `LASTERR` and the buffers (R11, R12, R16 to R18), and how the first two add up over
a run (R108, R139). -/

namespace Sys2Proof.Machine

/-! ### Reset and the selectors -/

/-- Settles O15. -/
theorem telegramSelectorNamesTheBuffers : Obligations.TelegramSelectorNamesTheBuffers :=
  ⟨rfl, rfl, rfl, rfl⟩

/-- Settles O8: no cell is listed after reset, so every byte reads as `readByte_nil` says; the registers are the fields
of `State.resetWith`. -/
theorem resetStateIsTheTable : Obligations.ResetStateIsTheTable :=
  ⟨fun _ t i => readByte_nil (t.base + i), fun _ => ⟨rfl, rfl, crcInit_eq⟩, rfl⟩

/-- Settles O10: nothing is listed and nothing is presented. -/
theorem invariantHoldsAfterReset : Obligations.InvariantHoldsAfterReset :=
  fun _ => ⟨wf_nil, rfl⟩

/-! ### What a shared operation can do -/

theorem statusCode_ne_zero (c : Condition) : statusCode c ≠ 0x00 := by
  cases c <;> decide

theorem finish_next {r : Res} {s s' : State} (h : finish r s = .next s') : s' = s.setRes (some r) :=
  (Host.Outcome.next.inj h).symm

/-- A command with a telegram operand that completes has raised NullReference, or its body has completed (R90). -/
theorem withTelegram_next {tsel : BitVec 2} {s s' : State} {body : Buf → Result}
    (h : withTelegram tsel s body = .next s') :
    (telegram tsel = none ∧ raise .nullReference Res.initial s = .next s') ∨
      ∃ t, telegram tsel = some t ∧ body t = .next s' := by
  rcases telegram_cases tsel with ⟨t, present⟩ | absent
  · rw [withTelegram_some present] at h
    exact .inr ⟨t, present, h⟩
  · rw [withTelegram, absent] at h
    exact .inl ⟨absent, h⟩

/-- A command with a byte index that completes has its index in range (R74). -/
theorem withIndex_next {idx : BitVec 5} {s' : State} {body : Nat → Result} (h : withIndex idx body = .next s') :
    idx.toNat < 25 ∧ body idx.toNat = .next s' := by
  rw [withIndex] at h
  split at h
  · next inBuffer => exact ⟨Nat.lt_succ_of_le ((indexInBuffer_iff idx).mp inBuffer), h⟩
  · cases h

/-- How `LASTERR` stands to the result that a command presents (R180): it holds the code of a condition signalled, or
nothing was signalled and it is as before. -/
def SlotFollows (before after : Byte) (res : Option Res) : Prop :=
  (∃ r, res = some r ∧ r.code ≠ 0x00 ∧ after = r.code) ∨ (after = before ∧ ∀ r, res = some r → r.code = 0x00)

/-- A condition signalled is recorded. -/
theorem SlotFollows.signalled {before : Byte} {r : Res} (h : r.code ≠ 0x00) :
    SlotFollows before r.code (some r) :=
  .inl ⟨r, rfl, h, rfl⟩

/-- A command that signals nothing keeps the slot. -/
theorem SlotFollows.silent {before after : Byte} {r : Res} (kept : after = before) (h : r.code = 0x00) :
    SlotFollows before after (some r) :=
  .inr ⟨kept, fun _ e => Option.some.inj e ▸ h⟩

/-- What finalization leaves in `LASTERR` agrees with the result that it leaves (R122). -/
theorem finalizeSteps_slotFollows (t : Buf) (s : State) :
    SlotFollows s.lastErr (finalizeSteps t Res.initial s).2.lastErr (some (finalizeSteps t Res.initial s).1) := by
  rw [finalizeSteps_rest, finalizeSteps_res]
  by_cases clamps : 20 < (s.byte t 4).toNat
  · simp only [if_pos clamps]
    exact .signalled (r := { Res.initial with code := 0x01, flag := true }) (by decide)
  · simp only [if_neg clamps]
    exact .silent rfl rfl

@[simp] theorem finalizeSteps_inputs (t : Buf) (r : Res) (s : State) : (finalizeSteps t r s).2.inputs = s.inputs := by
  rw [finalizeSteps_rest]

@[simp] theorem finalizeSteps_seq (t : Buf) (r : Res) (s : State) : (finalizeSteps t r s).2.seq = s.seq + 1 := by
  rw [finalizeSteps_rest]

@[simp] theorem finalizeSteps_crcAcc (t : Buf) (r : Res) (s : State) : (finalizeSteps t r s).2.crcAcc = s.crcAcc := by
  rw [finalizeSteps_rest]

/-- The four bytes that finalization writes are inside its buffer. -/
theorem readByte_finalizeSteps_outside (t : Buf) (r : Res) (s : State) {a : Nat}
    (outside : ¬ (t.base ≤ a ∧ a < t.base + 25)) :
    readByte (finalizeSteps t r s).2.mem a = readByte s.mem a :=
  readByte_finalizeSteps t r s (by omega)

/-- What ENCODE leaves alone from its `TxAvail()` test onward, whatever the transport answers (R126, R127). -/
theorem transmit_keeps {t : Buf} {r : Res} {s s' : State} (h : transmit t r s = .next s') :
    s'.mem = s.mem ∧ s'.inputs = s.inputs ∧ s'.seq = s.seq ∧ s'.crcAcc = s.crcAcc := by
  rcases transmit_cases t r s with ⟨-, -, e⟩ | ⟨-, e⟩ | ⟨_, -, -, e⟩ <;>
    obtain rfl := Host.Outcome.next.inj (e.symm.trans h) <;> exact ⟨rfl, rfl, rfl, rfl⟩

/-- A transmission that succeeds keeps the slot and the result as they agreed before it; one that fails records its
failure (R127). -/
theorem transmit_slotFollows {t : Buf} {r : Res} {s s' : State} {before : Byte}
    (agrees : SlotFollows before s.lastErr (some r)) (h : transmit t r s = .next s') :
    SlotFollows before s'.lastErr s'.res := by
  have failed : SlotFollows before 0xFF (some { r with code := 0xFF }) :=
    .signalled (r := { r with code := 0xFF }) (statusCode_ne_zero .transportFailure)
  rcases transmit_cases t r s with ⟨-, -, e⟩ | ⟨-, e⟩ | ⟨_, -, -, e⟩ <;>
    obtain rfl := Host.Outcome.next.inj (e.symm.trans h)
  · exact agrees
  · exact failed
  · exact failed

/-- What DECODE stores in its cleared buffer, if it stores anything: a header, with an `arg_cnt` of at most 20, and
arguments, 25 bytes at most (R131, R133). -/
theorem receive_mem {t : Buf} {c s' : State} (h : receive t c = .next s') :
    s'.mem = c.mem ∨ ∃ bs, s'.mem = (c.setBytes t bs).mem ∧ 5 ≤ bs.length ∧ bs.length ≤ 25 ∧
      (bs.getD 4 0).toNat ≤ 20 := by
  obtain ⟨kept | ⟨h0, h1, h2, h3, h4, args, len, stored⟩, -⟩ := receive_spec h
  · exact .inl kept
  · refine .inr ⟨[h0, h1, h2, h3, BitVec.ofNat 8 (min h4.toNat 20)] ++ args, stored, ?_, ?_,
      (toNat_argLimit h4).trans_le (Nat.min_le_right _ _)⟩ <;>
      simp only [List.length_append, List.length_cons, List.length_nil, len] <;> omega

/-! ### What an instruction does to the registers and the buffers -/

/-- `CRCACC` after an instruction (R104, R105): only CRCINIT and CRCBYTE write it (R18). -/
def crcAccAfter (c : Byte) : Instr → Byte
  | .crcinit => 0x00
  | .crcbyte v => crcByte c v
  | _ => c

/-- What an instruction that completes has done to the block, and to what the outside presents next. -/
structure InstrEffect (i : Instr) (s s' : State) : Prop where
  inputs : s'.inputs = s.inputs
  seq : s'.seq = if instrFinalizes i then s.seq + 1 else s.seq
  crcAcc : s'.crcAcc = crcAccAfter s.crcAcc i
  lastErr : (∃ v, i = .wrerr v ∧ s'.lastErr = v) ∨ SlotFollows s.lastErr s'.lastErr s'.res
  mem : ∀ a, (∀ t, writtenBuffer i = some t → ¬ (t.base ≤ a ∧ a < t.base + 25)) →
    readByte s'.mem a = readByte s.mem a

/-- A command that ends by presenting a result: what it has done is what its state had before the result. -/
theorem finish_effect {i : Instr} {r : Res} {s c s' : State} (h : finish r c = .next s')
    (inputs : c.inputs = s.inputs) (seq : c.seq = if instrFinalizes i then s.seq + 1 else s.seq)
    (crcAcc : c.crcAcc = crcAccAfter s.crcAcc i) (slot : SlotFollows s.lastErr c.lastErr (some r))
    (mem : ∀ a, (∀ t, writtenBuffer i = some t → ¬ (t.base ≤ a ∧ a < t.base + 25)) →
      readByte c.mem a = readByte s.mem a) : InstrEffect i s s' := by
  obtain rfl := finish_next h
  exact ⟨inputs, seq, crcAcc, .inr slot, mem⟩

/-- A command that presents a result and changes nothing else. -/
theorem answer_effect {i : Instr} {r : Res} {s s' : State} (finalizes : instrFinalizes i = false)
    (crc : crcAccAfter s.crcAcc i = s.crcAcc) (code : r.code = 0x00) (h : finish r s = .next s') :
    InstrEffect i s s' :=
  finish_effect h rfl (by rw [finalizes]; rfl) crc.symm (.silent rfl code) fun _ _ => rfl

/-- A command that raises a condition and changes nothing else (R180). -/
theorem raise_effect {i : Instr} {c : Condition} {r : Res} {s s' : State} (finalizes : instrFinalizes i = false)
    (crc : crcAccAfter s.crcAcc i = s.crcAcc) (h : raise c r s = .next s') : InstrEffect i s s' :=
  finish_effect h (record_inputs s c) (by rw [finalizes]; rfl) crc.symm
    (.signalled (r := signal c r) (statusCode_ne_zero c)) fun _ _ => rfl

/-- A command with a telegram operand: an absent telegram raises, so only a present one is left to look at. -/
theorem withTelegram_effect {i : Instr} {tsel : BitVec 2} {s s' : State} {body : Buf → Result}
    (finalizes : telegram tsel = none → instrFinalizes i = false) (crc : crcAccAfter s.crcAcc i = s.crcAcc)
    (present : ∀ t, telegram tsel = some t → body t = .next s' → InstrEffect i s s')
    (h : withTelegram tsel s body = .next s') : InstrEffect i s s' := by
  rcases withTelegram_next h with ⟨absent, raised⟩ | ⟨t, ht, done⟩
  · exact raise_effect (finalizes absent) crc raised
  · exact present t ht done

theorem execClear_effect {tsel : BitVec 2} {s s' : State} (h : execClear tsel s = .next s') :
    InstrEffect (.clear tsel) s s' := by
  rw [execClear] at h
  refine withTelegram_effect (fun _ => rfl) rfl (fun t ht done => ?_) h
  exact finish_effect done (clearBuffer_inputs s t) (clearBuffer_seq s t) (clearBuffer_crcAcc s t)
    (.silent (clearBuffer_lastErr s t) rfl) fun a outside => readByte_clearBuffer s t (outside t ht)

theorem execRdf_effect {tsel : BitVec 2} {idx : BitVec 5} {s s' : State} (h : execRdf tsel idx s = .next s') :
    InstrEffect (.rdf tsel idx) s s' :=
  withTelegram_effect (fun _ => rfl) rfl (fun _ _ => answer_effect rfl rfl rfl) (withIndex_next h).2

theorem execWrf_effect {tsel : BitVec 2} {idx : BitVec 5} {v : Byte} {s s' : State}
    (h : execWrf tsel idx v s = .next s') : InstrEffect (.wrf tsel idx v) s s' := by
  obtain ⟨inBuffer, h⟩ := withIndex_next h
  refine withTelegram_effect (fun _ => rfl) rfl (fun t ht done => ?_) h
  refine finish_effect done (setByte_inputs ..) (setByte_seq ..) (setByte_crcAcc ..)
    (.silent (setByte_lastErr ..) rfl) fun a outside => ?_
  have := outside t ht
  exact readByte_writeByte_ne s.mem v (by omega)

theorem execFinalize_effect {tsel : BitVec 2} {s s' : State} (h : execFinalize tsel s = .next s') :
    InstrEffect (.finalize tsel) s s' := by
  rw [execFinalize] at h
  refine withTelegram_effect (fun absent => by rw [instrFinalizes, absent]; rfl) rfl (fun t ht done => ?_) h
  exact finish_effect done (finalizeSteps_inputs ..) (by simp [instrFinalizes, ht]) (finalizeSteps_crcAcc ..)
    (finalizeSteps_slotFollows t s) fun a outside => readByte_finalizeSteps_outside t _ s (outside t ht)

theorem execSend_effect {tsel : BitVec 2} {s s' : State} (h : execSend tsel s = .next s') :
    InstrEffect (.send tsel) s s' := by
  rw [execSend] at h
  refine withTelegram_effect (fun absent => by rw [instrFinalizes, absent]; rfl) rfl (fun t ht done => ?_) h
  obtain ⟨mem, inputs, seq, crcAcc⟩ := transmit_keeps done
  refine ⟨inputs.trans (finalizeSteps_inputs _ _ _), by simp [instrFinalizes, ht, seq],
    crcAcc.trans (finalizeSteps_crcAcc _ _ _), .inr (transmit_slotFollows (finalizeSteps_slotFollows t s) done),
    fun a outside => ?_⟩
  rw [mem, readByte_finalizeSteps_outside t _ s (outside t ht)]

theorem execEncode_effect {tsel : BitVec 2} {s s' : State} (h : execEncode tsel s = .next s') :
    InstrEffect (.encode tsel) s s' := by
  rw [execEncode] at h
  refine withTelegram_effect (fun _ => rfl) rfl (fun t _ done => ?_) h
  split at done
  · cases done
  · obtain ⟨mem, inputs, seq, crcAcc⟩ := transmit_keeps done
    exact ⟨inputs, seq, crcAcc, .inr (transmit_slotFollows (.silent rfl rfl) done), fun a _ => by rw [mem]⟩

/-- A DECODE that signals a condition records it (R131, R133, R134). -/
theorem receive_slotFollows {t : Buf} {c s' : State} (h : receive t c = .next s') :
    SlotFollows c.lastErr s'.lastErr s'.res := by
  have nonzero : ∀ e ∈ [(0x01 : Byte), 0xFF, 0xFD], e ≠ 0x00 := by decide
  obtain ⟨-, -, -, -, -, -, -, -, e, res, ⟨rfl, kept⟩ | ⟨code, recorded⟩⟩ := receive_spec h
  · rw [res]
    exact .silent kept rfl
  · rw [res, recorded]
    exact .signalled (r := { code := e, flag := false, val := 0x00 }) (nonzero e code)

theorem execDecode_effect {tsel : BitVec 2} {s s' : State} (h : execDecode tsel s = .next s') :
    InstrEffect (.decode tsel) s s' := by
  rw [execDecode] at h
  refine withTelegram_effect (fun _ => rfl) rfl (fun t ht done => ?_) h
  obtain ⟨-, -, seq, crcAcc, -, -, inputs, -⟩ := receive_spec done
  have follows := receive_slotFollows done
  rw [clearBuffer_lastErr] at follows
  refine ⟨inputs.trans (clearBuffer_inputs s t), seq.trans (clearBuffer_seq s t),
    crcAcc.trans (clearBuffer_crcAcc s t), .inr follows, fun a outside => ?_⟩
  have outside := outside t ht
  rw [← readByte_clearBuffer s t outside]
  rcases receive_mem done with kept | ⟨bs, stored, -, len, -⟩
  · rw [kept]
  · rw [stored, readByte_setBytes _ t bs (by omega)]

theorem execVerify_effect {tsel : BitVec 2} {s s' : State} (h : execVerify tsel s = .next s') :
    InstrEffect (.verify tsel) s s' := by
  rw [execVerify] at h
  refine withTelegram_effect (fun _ => rfl) rfl (fun t _ done => ?_) h
  split at done
  · exact answer_effect rfl rfl rfl done
  · exact raise_effect rfl rfl done

/-- A telegram opcode waits in the transport, and does nothing to the block (R68). -/
theorem carry_effect {i : Instr} {b : Byte} (h : encode i = .telegramByte b) (s : State) :
    InstrEffect i s (carry b s) := by
  have silent : SlotFollows s.lastErr s.lastErr none := .inr ⟨rfl, fun _ e => nomatch e⟩
  cases i <;> cases h <;> exact ⟨rfl, rfl, rfl, .inr silent, fun _ _ => rfl⟩

/-- Every instruction that completes has its effect, by cases on the instruction. -/
theorem exec_effect {i : Instr} {s s' : State} (h : exec i s = .next s') : InstrEffect i s s' := by
  cases i with
  | clear tsel => exact execClear_effect h
  | rdf tsel idx => exact execRdf_effect h
  | wrf tsel idx v => exact execWrf_effect h
  | crcinit => exact finish_effect h rfl rfl crcInit_eq (.silent rfl rfl) fun _ _ => rfl
  | crcbyte v => exact finish_effect h rfl rfl rfl (.silent rfl rfl) fun _ _ => rfl
  | crcrd => exact answer_effect rfl rfl rfl h
  | crct tsel => exact withTelegram_effect (fun _ => rfl) rfl (fun _ _ => answer_effect rfl rfl rfl) h
  | finalize tsel => exact execFinalize_effect h
  | encode tsel => exact execEncode_effect h
  | send tsel => exact execSend_effect h
  | decode tsel => exact execDecode_effect h
  | verify tsel => exact execVerify_effect h
  | rdseq => exact answer_effect rfl rfl rfl h
  | rderr => exact answer_effect rfl rfl rfl h
  | wrerr v =>
    obtain rfl := finish_next h
    exact ⟨rfl, rfl, rfl, .inl ⟨v, rfl, rfl⟩, fun _ _ => rfl⟩
  | _ =>
    obtain rfl := Host.Outcome.next.inj ((exec_of_encode_telegramByte rfl s).symm.trans h)
    exact carry_effect rfl s

/-- Settles O44. -/
theorem onlyTheNamedBufferIsWritten : Obligations.OnlyTheNamedBufferIsWritten :=
  fun _ _ _ h => (exec_effect h).mem

/-! ### `arg_cnt` after the codec (R12) -/

theorem exec_finalize_eq {tsel : BitVec 2} {t : Buf} (ht : telegram tsel = some t) (s : State) :
    exec (.finalize tsel) s =
      .next ((finalizeSteps t Res.initial s).2.setRes (some (finalizeSteps t Res.initial s).1)) :=
  withTelegram_some ht s _

theorem exec_send_eq {tsel : BitVec 2} {t : Buf} (ht : telegram tsel = some t) (s : State) :
    exec (.send tsel) s = transmit t (finalizeSteps t Res.initial s).1 (finalizeSteps t Res.initial s).2 :=
  withTelegram_some ht s _

theorem exec_decode_eq {tsel : BitVec 2} {t : Buf} (ht : telegram tsel = some t) (s : State) :
    exec (.decode tsel) s = receive t (s.clearBuffer t) :=
  withTelegram_some ht s _

/-- The `arg_cnt` that finalization leaves (R122). -/
theorem argCnt_finalizeSteps_le (t : Buf) (r : Res) (s : State) :
    ((finalizeSteps t r s).2.byte t 4).toNat ≤ 20 := by
  have clamped : (finalizeSteps t r s).2.byte t 4 = BitVec.ofNat 8 (argLimit (s.byte t 4)) :=
    byte_finalizeSteps t r s 4
  rw [clamped, toNat_argLimit]
  exact Nat.min_le_right _ _

/-- Equal memories read alike. -/
theorem byte_congr {s s' : State} (h : s'.mem = s.mem) (t : Buf) (i : Nat) : s'.byte t i = s.byte t i := by
  rw [State.byte, h, State.byte]

/-- The `arg_cnt` that DECODE leaves: 0 in a cleared buffer, and clamped in a stored telegram (R131, R133). -/
theorem argCnt_receive_le {t : Buf} {s s' : State} (h : receive t (s.clearBuffer t) = .next s') :
    (s'.byte t 4).toNat ≤ 20 := by
  rcases receive_mem h with kept | ⟨bs, stored, len, -, argCnt⟩
  · rw [byte_congr kept, byte_clearBuffer s t (by omega)]
    decide
  · rw [byte_congr stored, byte_setBytes, if_pos (by omega)]
    exact argCnt

/-- Settles O37: FINALIZE and SEND clamp before they write or transmit, and DECODE stores a clamped count or none. -/
theorem argCountIsBoundedAfterTheCodec : Obligations.ArgCountIsBoundedAfterTheCodec := by
  intro s tsel t ht i hi
  simp only [List.mem_cons, List.not_mem_nil, or_false] at hi
  rcases hi with rfl | rfl | rfl
  · refine ⟨_, exec_finalize_eq ht s, ?_⟩
    rw [setRes_byte]
    exact argCnt_finalizeSteps_le t Res.initial s
  · obtain ⟨s', sent⟩ := transmit_completes t (finalizeSteps t Res.initial s).1 (finalizeSteps t Res.initial s).2
    refine ⟨s', (exec_send_eq ht s).trans sent, ?_⟩
    rw [byte_congr (transmit_keeps sent).1]
    exact argCnt_finalizeSteps_le t Res.initial s
  · obtain ⟨s', received⟩ := receive_completes t (s.clearBuffer t)
    exact ⟨s', (exec_decode_eq ht s).trans received, argCnt_receive_le received⟩

/-! ### What a step does -/

theorem step_of_fetch_quiet {s s' : State} (h : fetch s = .quiet s') : step s = .next s' := by
  rw [step, h]

/-- A step that completes is idle, a reset, the carrying of a byte that is no instruction, or the instruction of the
first input, run in the state that has taken it. -/
theorem step_next {s s' : State} (h : step s = .next s') :
    (s.inputs = [] ∧ s' = s.setRes none) ∨
    ∃ x rest, s.inputs = x :: rest ∧
      ((x = .reset ∧ s' = resetBlock { s with inputs := rest }) ∨
        (∃ b, x = .linkByte b ∧ x.instr = none ∧ s' = carry b { s with inputs := rest }) ∨
        ∃ i env, x.instr = some i ∧ exec i { s with inputs := rest, env := env } = .next s') := by
  cases hin : s.inputs with
  | nil =>
    cases (step_of_fetch_quiet (fetch_idle hin)).symm.trans h
    exact .inl ⟨rfl, rfl⟩
  | cons x rest =>
    refine .inr ⟨x, rest, rfl, ?_⟩
    cases x with
    | reset =>
      cases (step_of_fetch_quiet (fetch_reset hin)).symm.trans h
      exact .inl ⟨rfl, rfl⟩
    | linkByte b =>
      cases hdec : decode (.telegramByte b) with
      | error why =>
        cases (step_of_fetch_quiet (fetch_noConstant hin hdec)).symm.trans h
        exact .inr (.inl ⟨b, rfl, by rw [Input.instr, hdec]; rfl, rfl⟩)
      | ok i =>
        rw [step_of_fetch_run (fetch_constant hin hdec)] at h
        exact .inr (.inr ⟨i, s.env, by rw [Input.instr, hdec]; rfl, h⟩)
    | command w env =>
      cases hdec : decode (.command w) with
      | error why => simp [step, fetch_reserved hin hdec] at h
      | ok i =>
        rw [step_of_fetch_run (fetch_command hin hdec)] at h
        exact .inr (.inr ⟨i, env, by rw [Input.instr, hdec]; rfl, h⟩)

/-- A step takes the first input, if there is one. -/
theorem step_inputs {s s' : State} (h : step s = .next s') : s'.inputs = s.inputs.tail := by
  rcases step_next h with ⟨hin, rfl⟩ | ⟨x, rest, hin, ⟨-, rfl⟩ | ⟨b, -, -, rfl⟩ | ⟨i, env, -, done⟩⟩ <;> rw [hin]
  · exact hin
  · rfl
  · rfl
  · exact (exec_effect done).inputs

/-- `SEQ` advances on a command that finalizes, and on nothing else but reset (R16, R124). -/
theorem step_seq {s s' : State} {x : Input} {rest : List Input} (hin : s.inputs = x :: rest) (noReset : x ≠ .reset)
    (h : step s = .next s') : s'.seq = if x.finalizes then s.seq + 1 else s.seq := by
  rcases step_next h with ⟨hin', -⟩ | ⟨x', rest', hin', ran⟩ <;> cases hin.symm.trans hin'
  rcases ran with ⟨reset, -⟩ | ⟨b, -, instr, rfl⟩ | ⟨i, env, instr, done⟩
  · exact absurd reset noReset
  · simp [Input.finalizes, instr]
  · simpa [Input.finalizes, instr] using (exec_effect done).seq

/-- A CRCINIT or a reset leaves 0x00 in `CRCACC` (R25, R104). -/
theorem step_crcAcc_of_restarts {s s' : State} {x : Input} {rest : List Input} (hin : s.inputs = x :: rest)
    (restarts : x.restartsStream = true) (h : step s = .next s') : s'.crcAcc = 0x00 := by
  rcases step_next h with ⟨hin', -⟩ | ⟨x', rest', hin', ran⟩ <;> cases hin.symm.trans hin'
  rcases ran with ⟨-, rfl⟩ | ⟨b, rfl, instr, -⟩ | ⟨i, env, instr, done⟩
  · exact crcInit_eq
  · simp [Input.restartsStream, instr] at restarts
  · cases x with
    | reset => cases instr
    | _ =>
      simp only [Input.restartsStream, instr, beq_iff_eq, Option.some.injEq] at restarts
      subst restarts
      exact (exec_effect done).crcAcc

/-- Any other input feeds the byte that it streams to `CRCACC`, if it streams one (R18, R105). -/
theorem step_crcAcc_of_continues {s s' : State} {x : Input} {rest : List Input} (hin : s.inputs = x :: rest)
    (continues : x.restartsStream = false) (h : step s = .next s') :
    s'.crcAcc = crcFrom s.crcAcc x.streamed.toList := by
  rcases step_next h with ⟨hin', -⟩ | ⟨x', rest', hin', ran⟩ <;> cases hin.symm.trans hin'
  rcases ran with ⟨rfl, -⟩ | ⟨b, -, instr, rfl⟩ | ⟨i, env, instr, done⟩
  · cases continues
  · simp [Input.streamed, instr, crcFrom]
  · have notInit : i ≠ .crcinit := by
      rintro rfl
      cases x <;> simp [Input.restartsStream, instr] at continues
    rw [(exec_effect done).crcAcc]
    cases i with
    | crcinit => exact absurd rfl notInit
    | crcbyte v => simp [Input.streamed, instr, crcAccAfter, crcFrom]
    | _ => simp [Input.streamed, instr, crcAccAfter, crcFrom]

/-- Settles O40: the slot follows the result in every step but a WRERR and a reset. -/
theorem lastErrorKeepsTheLastCondition : Obligations.LastErrorKeepsTheLastCondition := by
  intro s s' h
  rcases step_next h with ⟨-, rfl⟩ | ⟨x, rest, hin, ⟨rfl, -⟩ | ⟨b, -, -, rfl⟩ | ⟨i, env, instr, done⟩⟩
  · exact .inr (.inr (.inr ⟨rfl, fun _ e => nomatch e⟩))
  · exact .inr (.inr (.inl ⟨rest, hin⟩))
  · exact .inr (.inr (.inr ⟨rfl, fun _ e => nomatch e⟩))
  · rcases (exec_effect done).lastErr with ⟨v, rfl, written⟩ | signalled | silent
    · exact .inr (.inl ⟨x, rest, v, hin, instr, written⟩)
    · exact .inl signalled
    · exact .inr (.inr (.inr silent))

/-! ### What a run does -/

/-- A run of `k` steps takes the first `k` inputs. -/
theorem runs_inputs {k : Nat} {s s' : State} (h : Runs k s s') : s'.inputs = s.inputs.drop k := by
  induction k generalizing s with
  | zero =>
    rw [runs_zero.mp h]
    rfl
  | succ k ih =>
    obtain ⟨m, first, later⟩ := runs_succ.mp h
    rw [ih later, step_inputs first, List.drop_tail]

/-- A run of `k + 1` steps is a run of `k` and a last step. -/
theorem runs_last {k : Nat} {s s' : State} (h : Runs (k + 1) s s') : ∃ m, Runs k s m ∧ step m = .next s' := by
  induction k generalizing s with
  | zero =>
    obtain ⟨m, first, done⟩ := runs_succ.mp h
    exact ⟨s, runs_zero.mpr rfl, runs_zero.mp done ▸ first⟩
  | succ k ih =>
    obtain ⟨m, first, later⟩ := runs_succ.mp h
    obtain ⟨n, before, last⟩ := ih later
    exact ⟨n, runs_succ.mpr ⟨m, first, before⟩, last⟩

/-- A register that an idle step keeps, and that a step with an allowed input updates by that input, ends a run as the
fold of its inputs. -/
theorem runs_fold {α : Type} {register : State → α} {update : α → Input → α} {allowed : Input → Prop}
    (idle : ∀ s, register (s.setRes none) = register s)
    (taken : ∀ {s s' : State} {x : Input} {rest : List Input}, s.inputs = x :: rest → allowed x →
      step s = .next s' → register s' = update (register s) x)
    {k : Nat} {s s' : State} (h : Runs k s s') (all : ∀ x ∈ s.inputs.take k, allowed x) :
    register s' = (s.inputs.take k).foldl update (register s) := by
  induction k generalizing s with
  | zero =>
    rw [runs_zero.mp h]
    rfl
  | succ k ih =>
    obtain ⟨m, first, later⟩ := runs_succ.mp h
    have inputs := step_inputs first
    cases hin : s.inputs with
    | nil =>
      rw [hin] at inputs
      rcases step_next first with ⟨-, rfl⟩ | ⟨x, rest, hin', -⟩
      · simpa [hin, idle] using ih later (by simp [hin])
      · cases hin.symm.trans hin'
    | cons x rest =>
      rw [hin] at inputs all
      simp only [List.take_succ_cons, List.forall_mem_cons, List.foldl_cons, List.tail_cons] at all inputs ⊢
      have later := ih later (by rw [inputs]; exact all.2)
      rwa [inputs, taken hin all.1 first] at later

/-! ### The streaming law (R108) -/

theorem foldl_streamed (c : Byte) (xs : List Input) :
    xs.foldl (fun c x => crcFrom c x.streamed.toList) c = crcFrom c (xs.filterMap Input.streamed) := by
  induction xs generalizing c with
  | nil => rfl
  | cons x xs ih =>
    rw [List.foldl_cons, ih, ← crcFrom_append, List.filterMap_cons]
    cases x.streamed <;> rfl

/-- Settles O25: the first input leaves 0x00, and each later one feeds what it streams. -/
theorem streamedChecksumIgnoresOtherCommands : Obligations.StreamedChecksumIgnoresOtherCommands := by
  intro s s' first rest hin restarts continues h
  obtain ⟨m, started, later⟩ := runs_succ.mp h
  obtain ⟨tail, hs⟩ : ∃ tail, s.inputs = first :: tail := by
    cases e : s.inputs with
    | nil => simp [e] at hin
    | cons x tail => exact ⟨tail, by simp_all⟩
  have taken : m.inputs.take rest.length = rest := by
    rw [step_inputs started, hs]
    simpa [hs] using hin
  have zero := step_crcAcc_of_restarts hs restarts started
  have folded := runs_fold (register := State.crcAcc) (update := fun c x => crcFrom c x.streamed.toList)
    (allowed := fun x => x.restartsStream = false) (fun _ => rfl) step_crcAcc_of_continues later
    (by rwa [taken])
  rw [folded, taken, zero, foldl_streamed]
  rfl

/-! ### The sequence numbers (R139) -/

theorem foldl_finalizes (n : Byte) (xs : List Input) :
    xs.foldl (fun n x => if x.finalizes then n + 1 else n) n = n + BitVec.ofNat 8 (xs.countP Input.finalizes) := by
  induction xs generalizing n with
  | nil => simp
  | cons x xs ih =>
    rw [List.foldl_cons, ih, List.countP_cons]
    split
    · rw [BitVec.ofNat_add, BitVec.add_assoc, BitVec.add_comm 1]
      rfl
    · rfl

/-- Over a run without a reset `SEQ` advances by the number of inputs that finalize. -/
theorem runs_seq {k : Nat} {s s' : State} (h : Runs k s s') (noReset : .reset ∉ s.inputs.take k) :
    s'.seq = s.seq + BitVec.ofNat 8 ((s.inputs.take k).countP Input.finalizes) := by
  rw [← foldl_finalizes]
  exact runs_fold (register := State.seq) (allowed := (· ≠ .reset)) (fun _ => rfl) step_seq h
    fun x hx reset => noReset (reset ▸ hx)

/-- Finalization assigns `SEQ` to byte 2 of its buffer (R124). -/
theorem sequence_finalizeSteps (t : Buf) (r : Res) (s : State) : (finalizeSteps t r s).2.byte t 2 = s.seq :=
  byte_finalizeSteps t r s 2

/-- FINALIZE and SEND of a present telegram leave in its byte 2 what `SEQ` was (R124, R129). -/
theorem exec_assigns_seq {i : Instr} {tsel : BitVec 2} {t : Buf} {s s' : State} (ht : telegram tsel = some t)
    (hi : i = .finalize tsel ∨ i = .send tsel) (h : exec i s = .next s') : s'.byte t 2 = s.seq := by
  rcases hi with rfl | rfl
  · obtain rfl := Host.Outcome.next.inj ((exec_finalize_eq ht s).symm.trans h)
    rw [setRes_byte]
    exact sequence_finalizeSteps t Res.initial s
  · rw [exec_send_eq ht] at h
    rw [byte_congr (transmit_keeps h).1]
    exact sequence_finalizeSteps t Res.initial s

/-- Settles O38: `runs_seq` is the first half, and gives the second the number that the last step assigns. -/
theorem sequenceNumbersAreConsecutive : Obligations.SequenceNumbersAreConsecutive := by
  refine ⟨fun k s s' h noReset => runs_seq h noReset, ?_⟩
  intro k s s' w env tsel t h noReset at_k hdec ht
  obtain ⟨m, before, last⟩ := runs_last h
  obtain ⟨later, hin⟩ : ∃ later, m.inputs = .command w env :: later := by
    obtain ⟨lt, e⟩ := List.getElem?_eq_some_iff.mp at_k
    exact ⟨_, by rw [runs_inputs before, List.drop_eq_getElem_cons lt, e]⟩
  obtain ⟨i, decoded, hi⟩ : ∃ i, decode (.command w) = .ok i ∧ (i = .finalize tsel ∨ i = .send tsel) :=
    hdec.elim (⟨_, ·, .inl rfl⟩) (⟨_, ·, .inr rfl⟩)
  rw [step_of_fetch_run (fetch_command hin decoded)] at last
  exact (exec_assigns_seq ht hi last).trans (runs_seq (s' := m) before noReset)

end Sys2Proof.Machine
end

section
/-! SUPPORT. Proofs of the statements of `20_memory.md`: every step keeps the invariant over the 50 cells (R40, R51,
R180), the environment decides no stop (R49), what a failed read leaves (R48, R134), and who reaches the streams (R41,
R50). -/

namespace Sys2Proof.Machine

/-! ### The invariant (R40, R51, R180, R181, R187) -/

theorem resultAgrees_some_iff {r : Res} {lastErr : Byte} :
    resultAgrees (some r) lastErr = true ↔ r.code ∈ signalledCodes ∧ (r.code = 0x00 ∨ r.code = lastErr) := by
  simp [resultAgrees]

/-- A result that signals nothing agrees with any slot. -/
theorem resultAgrees_silent {r : Res} (h : r.code = 0x00) (lastErr : Byte) :
    resultAgrees (some r) lastErr = true :=
  resultAgrees_some_iff.mpr ⟨h ▸ by decide, .inl h⟩

/-- A result whose code is recorded agrees with the slot, when the code is one that the TCU signals. -/
theorem resultAgrees_signalled {r : Res} (h : r.code ∈ signalledCodes) : resultAgrees (some r) r.code = true :=
  resultAgrees_some_iff.mpr ⟨h, .inr rfl⟩

/-- A command that presents a result ends in the invariant, if its state had it under that result. -/
theorem finish_inv {r : Res} {c s' : State} (h : finish r c = .next s') (wf : Memory.wf c.mem = true)
    (agrees : resultAgrees (some r) c.lastErr = true) : Inv s' := by
  obtain rfl := finish_next h
  exact ⟨wf, agrees⟩

/-- A command that signals nothing ends in the invariant if it has left memory canonical. -/
theorem finish_inv_silent {r : Res} {c s' : State} (h : finish r c = .next s') (wf : Memory.wf c.mem = true)
    (code : r.code = 0x00) : Inv s' :=
  finish_inv h wf (resultAgrees_silent code c.lastErr)

/-- A command that raises a condition of the TCU ends in the invariant (R180, R181). -/
theorem raise_inv {e : Condition} {r : Res} {c s' : State} (h : raise e r c = .next s')
    (wf : Memory.wf c.mem = true) (signals : statusCode e ∈ signalledCodes) : Inv s' :=
  finish_inv h wf (resultAgrees_signalled (r := signal e r) signals)

/-- A command with a telegram operand: an absent telegram raises NullReference, so only a present one is left. -/
theorem withTelegram_inv {tsel : BitVec 2} {s s' : State} {body : Buf → Result}
    (h : withTelegram tsel s body = .next s') (wf : Memory.wf s.mem = true)
    (present : ∀ t, body t = .next s' → Inv s') : Inv s' := by
  rcases withTelegram_next h with ⟨-, raised⟩ | ⟨t, -, done⟩
  · exact raise_inv raised wf (by decide)
  · exact present t done

theorem wf_clearBuffer {s : State} (t : Buf) (wf : Memory.wf s.mem = true) :
    Memory.wf (s.clearBuffer t).mem = true := by
  obtain ⟨m, cleared, -, -, canonical⟩ := clearBuffer_spec s t
  rw [cleared]
  exact canonical wf

/-- Finalization leaves a result that agrees with the slot: DataDropped recorded, or nothing signalled (R122). -/
theorem finalizeSteps_agrees (t : Buf) (s : State) :
    resultAgrees (some (finalizeSteps t Res.initial s).1) (finalizeSteps t Res.initial s).2.lastErr = true := by
  rw [finalizeSteps_rest, finalizeSteps_res]
  by_cases clamps : 20 < (s.byte t 4).toNat
  · simp only [if_pos clamps]
    exact resultAgrees_signalled (r := { Res.initial with code := 0x01, flag := true }) (by decide)
  · simp only [if_neg clamps]
    exact resultAgrees_silent rfl _

/-- A transmission presents the result that it was given, or signals and records TransportFailure (R126, R127). -/
theorem transmit_inv {t : Buf} {r : Res} {c s' : State} (h : transmit t r c = .next s')
    (wf : Memory.wf c.mem = true) (agrees : resultAgrees (some r) c.lastErr = true) : Inv s' := by
  have failed : resultAgrees (some { r with code := 0xFF }) 0xFF = true :=
    resultAgrees_signalled (r := { r with code := 0xFF }) (by decide : (0xFF : Byte) ∈ signalledCodes)
  rcases transmit_cases t r c with ⟨-, -, e⟩ | ⟨-, e⟩ | ⟨_, -, -, e⟩ <;>
    obtain rfl := Host.Outcome.next.inj (e.symm.trans h)
  · exact ⟨wf, agrees⟩
  · exact ⟨wf, failed⟩
  · exact ⟨wf, failed⟩

/-- A DECODE writes at most the 25 cells of its buffer, and records what it signals (R131, R133, R134). -/
theorem receive_inv {t : Buf} {c s' : State} (h : receive t c = .next s') (wf : Memory.wf c.mem = true) : Inv s' := by
  have codes : ∀ e ∈ [(0x01 : Byte), 0xFF, 0xFD], e ∈ signalledCodes := by decide
  constructor
  · rcases receive_mem h with kept | ⟨bs, stored, -, len, -⟩
    · rwa [kept]
    · rw [stored]
      exact wf_writeBytes_base t wf len
  · obtain ⟨-, -, -, -, -, -, -, -, e, res, ⟨rfl, -⟩ | ⟨code, recorded⟩⟩ := receive_spec h
    · rw [res]
      exact resultAgrees_silent rfl _
    · rw [res, recorded]
      exact resultAgrees_signalled (r := { code := e, flag := false, val := 0x00 }) (codes e code)

theorem execRdf_inv {tsel : BitVec 2} {idx : BitVec 5} {s s' : State} (h : execRdf tsel idx s = .next s')
    (wf : Memory.wf s.mem = true) : Inv s' :=
  withTelegram_inv (withIndex_next h).2 wf fun _ done => finish_inv_silent done wf rfl

theorem execWrf_inv {tsel : BitVec 2} {idx : BitVec 5} {v : Byte} {s s' : State}
    (h : execWrf tsel idx v s = .next s') (wf : Memory.wf s.mem = true) : Inv s' := by
  obtain ⟨inBuffer, h⟩ := withIndex_next h
  exact withTelegram_inv h wf fun t done =>
    finish_inv_silent done (wf_writeByte v wf (isCell_base t inBuffer)) rfl

theorem execEncode_inv {tsel : BitVec 2} {s s' : State} (h : execEncode tsel s = .next s')
    (wf : Memory.wf s.mem = true) : Inv s' := by
  refine withTelegram_inv h wf fun t done => ?_
  split at done
  · cases done
  · exact transmit_inv done wf (resultAgrees_silent rfl _)

theorem execVerify_inv {tsel : BitVec 2} {s s' : State} (h : execVerify tsel s = .next s')
    (wf : Memory.wf s.mem = true) : Inv s' := by
  refine withTelegram_inv h wf fun t done => ?_
  split at done
  · exact finish_inv_silent done wf rfl
  · exact raise_inv done wf (by decide)

/-- An instruction that completes from a canonical memory ends in the invariant, whatever result was presented before
it. -/
theorem exec_inv {i : Instr} {s s' : State} (h : exec i s = .next s') (wf : Memory.wf s.mem = true) : Inv s' := by
  cases i with
  | clear tsel => exact withTelegram_inv h wf fun t done => finish_inv_silent done (wf_clearBuffer t wf) rfl
  | rdf tsel idx => exact execRdf_inv h wf
  | wrf tsel idx v => exact execWrf_inv h wf
  | crcinit => exact finish_inv_silent h wf rfl
  | crcbyte v => exact finish_inv_silent h wf rfl
  | crcrd => exact finish_inv_silent h wf rfl
  | crct tsel => exact withTelegram_inv h wf fun _ done => finish_inv_silent done wf rfl
  | finalize tsel =>
    exact withTelegram_inv h wf fun t done => finish_inv done (wf_finalizeSteps t _ wf) (finalizeSteps_agrees t s)
  | encode tsel => exact execEncode_inv h wf
  | send tsel =>
    exact withTelegram_inv h wf fun t done => transmit_inv done (wf_finalizeSteps t _ wf) (finalizeSteps_agrees t s)
  | decode tsel => exact withTelegram_inv h wf fun t done => receive_inv done (wf_clearBuffer t wf)
  | verify tsel => exact execVerify_inv h wf
  | rdseq => exact finish_inv_silent h wf rfl
  | rderr => exact finish_inv_silent h wf rfl
  | wrerr v => exact finish_inv_silent h wf rfl
  | _ =>
    obtain rfl := Host.Outcome.next.inj ((exec_of_encode_telegramByte rfl s).symm.trans h)
    exact ⟨wf, rfl⟩

/-- Settles O11: what is no instruction presents no result and keeps or empties memory, and an instruction ends as
`exec_inv` says. -/
theorem stepKeepsTheInvariant : Obligations.StepKeepsTheInvariant := by
  rintro s s' ⟨wf, -⟩ h
  rcases step_next h with ⟨-, rfl⟩ | ⟨x, rest, -, ⟨-, rfl⟩ | ⟨b, -, -, rfl⟩ | ⟨i, env, -, done⟩⟩
  · exact ⟨wf, rfl⟩
  · exact ⟨wf_nil, rfl⟩
  · exact ⟨wf, rfl⟩
  · exact exec_inv done wf

/-! ### What completes (R49) -/

theorem execRdf_next {tsel : BitVec 2} {idx : BitVec 5} {s s' : State} (h : execRdf tsel idx s = .next s') :
    idx.toNat < 25 :=
  (withIndex_next h).1

theorem execWrf_next {tsel : BitVec 2} {idx : BitVec 5} {v : Byte} {s s' : State}
    (h : execWrf tsel idx v s = .next s') : idx.toNat < 25 :=
  (withIndex_next h).1

/-- An instruction that completes is well formed: RDF and WRF of another index fault (R51, R74). -/
theorem wellFormed_of_completes {i : Instr} {s s' : State} (h : exec i s = .next s') : WellFormed i := by
  cases i with
  | rdf tsel idx => exact (indexInBuffer_iff idx).mpr (Nat.le_of_lt_succ (execRdf_next h))
  | wrf tsel idx v => exact (indexInBuffer_iff idx).mpr (Nat.le_of_lt_succ (execWrf_next h))
  | _ => rfl

/-- An ENCODE that completes has transmitted a buffer whose `arg_cnt` is at most 20 (R128). -/
theorem execEncode_next {tsel : BitVec 2} {t : Buf} {s s' : State} (ht : telegram tsel = some t)
    (h : execEncode tsel s = .next s') :
    (s.field t .argCnt).toNat ≤ 20 ∧ transmit t Res.initial s = .next s' := by
  rw [execEncode, withTelegram_some ht] at h
  split at h
  · cases h
  · next fits => exact ⟨Nat.le_of_not_lt fun large => fits ((exceedsCapacity_iff _).mpr large), h⟩

/-- Exactly what completes: the instruction and the state's memory decide it. -/
theorem exec_completes_iff (i : Instr) (s : State) :
    (∃ s', exec i s = .next s') ↔
      WellFormed i ∧ ∀ tsel t, i = .encode tsel → telegram tsel = some t → (s.field t .argCnt).toNat ≤ 20 := by
  constructor
  · rintro ⟨s', h⟩
    refine ⟨wellFormed_of_completes h, ?_⟩
    rintro tsel t rfl ht
    exact (execEncode_next ht h).1
  · rintro ⟨wf, fits⟩
    exact wellFormedInstructionsComplete i s wf fits

/-- Settles O13: `exec_completes_iff` names no answer of the environment. -/
theorem environmentNeverDecidesAStop : Obligations.EnvironmentNeverDecidesAStop := by
  intro i s env
  rw [exec_completes_iff, exec_completes_iff]
  rfl

/-! ### A DECODE that fails (R48, R134) -/

/-- The condition of a read that delivers nothing (R134). -/
def ReadResult.condition : ReadResult → Option Condition
  | .bytes _ => none
  | .timeout => some .timeout
  | .fail => some .transportFailure

/-- An answer that ends a read after `k` bytes, and the condition that it stands for (R48). -/
def ReadAnswer.endsAfter (answer : ReadAnswer) (k : Nat) (e : Condition) : Prop :=
  (answer = .timeout k ∧ e = .timeout) ∨ (answer = .fail k ∧ e = .transportFailure)

/-- A read that ends after `k` bytes loses them (R48). -/
theorem rxRead_endsAfter {n k : Nat} {answer : ReadAnswer} {e : Condition} (h : answer.endsAfter k e) (hk : k < n)
    (s : State) : ∃ q, q.condition = some e ∧ rxRead n answer s = (q, s.setRx (s.rx.drop k)) := by
  have below : min k (n - 1) = k := by omega
  rcases h with ⟨rfl, rfl⟩ | ⟨rfl, rfl⟩
  · exact ⟨.timeout, rfl, by rw [rxRead, below]⟩
  · exact ⟨.fail, rfl, by rw [rxRead, below]⟩

theorem receive_unavailable {t : Buf} {c : State} (h : c.env.rxAvail = false) :
    receive t c = raise .transportFailure Res.initial c := by
  rw [receive, h]
  rfl

/-- A header read that delivers nothing ends the command with its condition (R134). -/
theorem receive_header_failed {t : Buf} {c c' : State} {q : ReadResult} {e : Condition}
    (avail : c.env.rxAvail = true) (read : rxRead 5 c.env.header c = (q, c')) (failed : q.condition = some e) :
    receive t c = raise e Res.initial c' := by
  rw [receive, if_pos avail, hdrLen_eq, read]
  cases q <;> cases failed <;> rfl

/-- A header that arrives is taken from `RX`, and the arguments that it announces are read next (R131). -/
theorem receive_header_arrived {t : Buf} {c : State} {header later : List Byte} (avail : c.env.rxAvail = true)
    (arrives : c.env.header = .arrive) (len : header.length = 5) (rx : c.rx = header ++ later) :
    receive t c = receiveArgs t header (c.setRx later) := by
  have read : rxRead 5 .arrive c = (.bytes header, c.setRx later) := by
    rw [rxRead, if_pos (by simp [rx, len]), rx, ← len, List.take_left, List.drop_left]
  rw [receive, if_pos avail, hdrLen_eq, arrives, read]

/-- A read of the arguments that delivers nothing ends the command with its condition (R134). -/
theorem receiveArgs_failed {t : Buf} {header : List Byte} {c c' : State} {q : ReadResult} {e : Condition}
    (read : readArgs (argLimit (header.getD 4 0x00)) c = (q, c')) (failed : q.condition = some e) :
    receiveArgs t header c = raise e Res.initial c' := by
  rw [receiveArgs, read]
  cases q <;> cases failed <;> rfl

/-- A header read that ends after `k` bytes (R48, R134). -/
theorem receive_header_endsAfter {t : Buf} {c : State} {k : Nat} {e : Condition} (avail : c.env.rxAvail = true)
    (ends : c.env.header.endsAfter k e) (hk : k < 5) :
    receive t c = raise e Res.initial (c.setRx (c.rx.drop k)) := by
  obtain ⟨q, failed, read⟩ := rxRead_endsAfter ends hk c
  exact receive_header_failed avail read failed

/-- A read of the arguments that ends after `k` bytes, the header taken before it (R48, R134). -/
theorem receive_args_endsAfter {t : Buf} {c : State} {h0 h1 h2 h3 h4 : Byte} {later : List Byte} {k : Nat}
    {e : Condition} (avail : c.env.rxAvail = true) (arrives : c.env.header = .arrive)
    (rx : c.rx = [h0, h1, h2, h3, h4] ++ later) (hk : k < min h4.toNat 20) (ends : c.env.args.endsAfter k e) :
    receive t c = raise e Res.initial (c.setRx (later.drop k)) := by
  obtain ⟨q, failed, read⟩ := rxRead_endsAfter ends hk (c.setRx later)
  rw [receive_header_arrived avail arrives rfl rx]
  exact receiveArgs_failed ((readArgs_pos (Nat.zero_lt_of_lt hk) _).trans read) failed

/-- What a DECODE leaves that ends by raising, with `left` of `RX`, whatever memory holds: the buffer as it was cleared
before anything was asked of the transport (R131, R134). -/
theorem exec_decode_raised {s : State} {tsel : BitVec 2} {t : Buf} {e : Condition} {left : List Byte}
    (ht : telegram tsel = some t)
    (raised : ∀ m, receive t { s with mem := m } = raise e Res.initial { s with mem := m, rx := left }) :
    ∃ s', exec (.decode tsel) s = .next s' ∧ (∀ i, i < 25 → s'.byte t i = 0x00) ∧
      (∀ a, ¬ (t.base ≤ a ∧ a < t.base + 25) → readByte s'.mem a = readByte s.mem a) ∧
      s' = { s with mem := s'.mem, rx := left, lastErr := statusCode e,
                    res := some { code := statusCode e, flag := false, val := 0x00 } } := by
  obtain ⟨m, cleared, zero, outside, -⟩ := clearBuffer_spec s t
  have ends := exec_decode_eq ht s
  rw [cleared, raised, raise_eq] at ends
  exact ⟨_, ends, zero, outside, rfl⟩

/-- Settles O33: each of the five paths raises its condition with its own rest of `RX`, whatever memory holds. -/
theorem failedDecodeLeavesAnEmptyTelegram : Obligations.FailedDecodeLeavesAnEmptyTelegram := by
  intro s tsel t code left ht fails
  obtain ⟨e, rfl, raised⟩ : ∃ e, statusCode e = code ∧
      ∀ m, receive t { s with mem := m } = raise e Res.initial { s with mem := m, rx := left } := by
    rcases fails with ⟨absent, rfl, rfl⟩ | ⟨avail, ⟨k, hk, header, rfl, rfl⟩ | ⟨k, hk, header, rfl, rfl⟩ |
      ⟨h0, h1, h2, h3, h4, later, k, arrives, rx, hk, rfl, ⟨args, rfl⟩ | ⟨args, rfl⟩⟩⟩
    · exact ⟨.transportFailure, rfl, fun _ => receive_unavailable absent⟩
    · exact ⟨.timeout, rfl, fun _ => receive_header_endsAfter avail (.inl ⟨header, rfl⟩) hk⟩
    · exact ⟨.transportFailure, rfl, fun _ => receive_header_endsAfter avail (.inr ⟨header, rfl⟩) hk⟩
    · exact ⟨.timeout, rfl, fun _ => receive_args_endsAfter avail arrives rx hk (.inl ⟨args, rfl⟩)⟩
    · exact ⟨.transportFailure, rfl, fun _ => receive_args_endsAfter avail arrives rx hk (.inr ⟨args, rfl⟩)⟩
  exact exec_decode_raised ht raised

/-! ### The streams (R41, R50) -/

/-- A word that decodes has passed the tests of R77, and is read by its `cop`. -/
theorem commandOf_of_decode {w : CmdWord} {i : Instr} (h : decode (.command w) = .ok i) :
    commandOf (copField w) (tselField w) (idxField w) (valueField w) = some i := by
  rw [decode, decodeCommand] at h
  split at h
  · cases h
  · split at h
    · cases h
    · split at h
      · cases h
      · split at h
        · next command => exact Except.ok.inj h ▸ command
        · cases h

/-- What a `cop` names is a command, and never a telegram opcode (R68, R76). -/
theorem encode_of_commandOf {cop : BitVec 4} {tsel : BitVec 2} {idx : BitVec 5} {v : Byte} {i : Instr}
    (h : commandOf cop tsel idx v = some i) : ∃ w, encode i = .command w := by
  rw [commandOf] at h
  split at h <;> cases h <;> exact ⟨_, rfl⟩

/-- What a command that completes has done to the transport's streams. -/
structure StreamEffect (i : Instr) (s s' : State) : Prop where
  tx : ∃ bs, s'.tx = s.tx ++ bs ∧ bs.length ≤ 25
  rx : ∃ bs, s.rx = bs ++ s'.rx ∧ bs.length ≤ 25
  txKept : (∀ tsel, i ≠ .encode tsel ∧ i ≠ .send tsel) → s'.tx = s.tx
  rxKept : (∀ tsel, i ≠ .decode tsel) → s'.rx = s.rx

/-- A command that leaves both streams. -/
theorem StreamEffect.kept {i : Instr} {s s' : State} (tx : s'.tx = s.tx) (rx : s'.rx = s.rx) :
    StreamEffect i s s' :=
  ⟨⟨[], by rw [tx, List.append_nil], Nat.zero_le _⟩, ⟨[], by rw [rx, List.nil_append], Nat.zero_le _⟩,
    fun _ => tx, fun _ => rx⟩

/-- A command that transmits. -/
theorem StreamEffect.sent {i : Instr} {s s' : State} (tx : ∃ bs, s'.tx = s.tx ++ bs ∧ bs.length ≤ 25)
    (rx : s'.rx = s.rx) (transmits : ¬ ∀ tsel, i ≠ .encode tsel ∧ i ≠ .send tsel) : StreamEffect i s s' :=
  ⟨tx, ⟨[], by rw [rx, List.nil_append], Nat.zero_le _⟩, fun other => absurd other transmits, fun _ => rx⟩

/-- A command that receives: what it leaves of `RX` is a drop of at most 25 bytes. -/
theorem StreamEffect.received {i : Instr} {s s' : State} {n : Nat} (tx : s'.tx = s.tx) (taken : n ≤ 25)
    (rx : s'.rx = s.rx.drop n) (receives : ¬ ∀ tsel, i ≠ .decode tsel) : StreamEffect i s s' :=
  ⟨⟨[], by rw [tx, List.append_nil], Nat.zero_le _⟩,
    ⟨s.rx.take n, by rw [rx, List.take_append_drop], (List.length_take_le n _).trans taken⟩,
    fun _ => tx, fun other => absurd other receives⟩

theorem finish_streams {i : Instr} {r : Res} {s c s' : State} (h : finish r c = .next s') (tx : c.tx = s.tx)
    (rx : c.rx = s.rx) : StreamEffect i s s' := by
  obtain rfl := finish_next h
  exact .kept tx rx

theorem withTelegram_streams {i : Instr} {tsel : BitVec 2} {s s' : State} {body : Buf → Result}
    (h : withTelegram tsel s body = .next s')
    (present : ∀ t, telegram tsel = some t → body t = .next s' → StreamEffect i s s') : StreamEffect i s s' := by
  rcases withTelegram_next h with ⟨-, raised⟩ | ⟨t, ht, done⟩
  · exact finish_streams raised rfl rfl
  · exact present t ht done

/-- The frame of a telegram whose `arg_cnt` is in range has at most 25 bytes (R60). -/
theorem length_frame_le {t : Buf} {s : State} (fits : (s.byte t 4).toNat ≤ 20) : (frame t s).length ≤ 25 := by
  rw [frame_eq, List.length_map, List.length_range]
  omega

/-- A transmission appends its frame, or the first bytes of it, or nothing to `TX`, and does not touch `RX` (R45,
R126). -/
theorem transmit_streams {t : Buf} {r : Res} {c s' : State} (h : transmit t r c = .next s')
    (fits : (c.byte t 4).toNat ≤ 20) : (∃ bs, s'.tx = c.tx ++ bs ∧ bs.length ≤ 25) ∧ s'.rx = c.rx := by
  have len := length_frame_le fits
  rcases transmit_cases t r c with ⟨-, -, e⟩ | ⟨-, e⟩ | ⟨k, -, -, e⟩ <;>
    obtain rfl := Host.Outcome.next.inj (e.symm.trans h)
  · exact ⟨⟨_, rfl, len⟩, rfl⟩
  · exact ⟨⟨[], (List.append_nil _).symm, Nat.zero_le _⟩, rfl⟩
  · exact ⟨⟨_, rfl, (List.length_take_le' k _).trans len⟩, rfl⟩

theorem execEncode_streams {tsel : BitVec 2} {s s' : State} (h : execEncode tsel s = .next s') :
    StreamEffect (.encode tsel) s s' := by
  refine withTelegram_streams h fun t ht _ => ?_
  obtain ⟨fits, sent⟩ := execEncode_next ht h
  obtain ⟨tx, rx⟩ := transmit_streams sent fits
  exact .sent tx rx fun other => (other tsel).1 rfl

theorem execSend_streams {tsel : BitVec 2} {s s' : State} (h : execSend tsel s = .next s') :
    StreamEffect (.send tsel) s s' := by
  refine withTelegram_streams h fun t _ done => ?_
  obtain ⟨tx, rx⟩ := transmit_streams done (argCnt_finalizeSteps_le t Res.initial s)
  rw [finalizeSteps_rest] at tx rx
  exact .sent tx rx fun other => (other tsel).2 rfl

theorem execDecode_streams {tsel : BitVec 2} {s s' : State} (h : execDecode tsel s = .next s') :
    StreamEffect (.decode tsel) s s' := by
  refine withTelegram_streams h fun t _ done => ?_
  obtain ⟨-, tx, -, -, -, -, -, ⟨n, taken, rx⟩, -⟩ := receive_spec done
  exact .received (tx.trans (clearBuffer_tx s t)) taken (rx.trans (by rw [clearBuffer_rx])) fun other => other tsel rfl

theorem execVerify_streams {tsel : BitVec 2} {s s' : State} (h : execVerify tsel s = .next s') :
    StreamEffect (.verify tsel) s s' := by
  refine withTelegram_streams h fun t _ done => ?_
  split at done
  · exact finish_streams done rfl rfl
  · exact finish_streams done rfl rfl

theorem execRdf_streams {tsel : BitVec 2} {idx : BitVec 5} {s s' : State} (h : execRdf tsel idx s = .next s') :
    StreamEffect (.rdf tsel idx) s s' :=
  withTelegram_streams (withIndex_next h).2 fun _ _ done => finish_streams done rfl rfl

theorem execWrf_streams {tsel : BitVec 2} {idx : BitVec 5} {v : Byte} {s s' : State}
    (h : execWrf tsel idx v s = .next s') : StreamEffect (.wrf tsel idx v) s s' :=
  withTelegram_streams (withIndex_next h).2 fun _ _ done => finish_streams done (setByte_tx ..) (setByte_rx ..)

/-- Every command that completes has its effect on the streams, by cases on the command. -/
theorem exec_streams {i : Instr} {w : CmdWord} {s s' : State} (command : encode i = .command w)
    (h : exec i s = .next s') : StreamEffect i s s' := by
  cases i with
  | clear tsel =>
    exact withTelegram_streams h fun t _ done => finish_streams done (clearBuffer_tx s t) (clearBuffer_rx s t)
  | rdf tsel idx => exact execRdf_streams h
  | wrf tsel idx v => exact execWrf_streams h
  | crcinit => exact finish_streams h rfl rfl
  | crcbyte v => exact finish_streams h rfl rfl
  | crcrd => exact finish_streams h rfl rfl
  | crct tsel => exact withTelegram_streams h fun _ _ done => finish_streams done rfl rfl
  | finalize tsel =>
    exact withTelegram_streams h fun t _ done =>
      finish_streams done (by rw [finalizeSteps_rest]) (by rw [finalizeSteps_rest])
  | encode tsel => exact execEncode_streams h
  | send tsel => exact execSend_streams h
  | decode tsel => exact execDecode_streams h
  | verify tsel => exact execVerify_streams h
  | rdseq => exact finish_streams h rfl rfl
  | rderr => exact finish_streams h rfl rfl
  | wrerr v => exact finish_streams h rfl rfl
  | _ => cases command

/-- Settles O45: a decoded word is a command, and has its effect on the streams. -/
theorem streamsAreReachedOnlyByTheCodec : Obligations.StreamsAreReachedOnlyByTheCodec := by
  intro w i s s' decoded done
  obtain ⟨_, command⟩ := encode_of_commandOf (commandOf_of_decode decoded)
  obtain ⟨tx, rx, txKept, rxKept⟩ := exec_streams command done
  exact ⟨tx, rx, txKept, rxKept⟩

end Sys2Proof.Machine
end

section
/-! SUPPORT. Proofs of the statements of `30_encoding.md`: the decoder and the encoder invert one another (R66, R72 to
R77), a word is read by the table of R76 or refused (R80), no command interprets an opcode byte (R68, R69), and what
the pseudo-commands do (R84). -/

namespace Sys2Proof.Machine

/-! ### A command word by its format (R73, R77) -/

/-- The word of a `cop` in a format, from the operand fields that the format has (R73). -/
def formatWord (f : Format) (cop : BitVec 4) (tsel : BitVec 2) (idx : BitVec 5) (v : Byte) : CmdWord :=
  match f with
  | .N => wordN cop
  | .T => wordT cop tsel
  | .F => wordF cop tsel idx
  | .W => wordW cop tsel idx v
  | .I => wordI cop v

/-- The must-be-zero test of R77 (2) passes exactly the words that are written in the format. -/
theorem mustBeZero_iff (f : Format) (w : CmdWord) :
    w &&& formatMask f = (copField w).setWidth 24 <<< 20 ↔
      w = formatWord f (copField w) (tselField w) (idxField w) (valueField w) := by
  rw [← fieldsWord_fields w]
  generalize copField w = cop, zeroField w = z, tselField w = tsel, idxField w = idx, valueField w = v
  rw [copField_fieldsWord, tselField_fieldsWord, idxField_fieldsWord, valueField_fieldsWord, mustBeZero_fields]
  cases f <;> simp [formatWord, wordN_fields, wordT_fields, wordF_fields, wordW_fields, wordI_fields, fieldsWord_inj]

/-- Exactly what decodes (R77): the word is written in the format of its `cop`, its index is in range where the format
bounds it, and the instruction is what the `cop` names. -/
theorem decode_command_iff {w : CmdWord} {i : Instr} :
    decode (.command w) = .ok i ↔
      ∃ f, formatOf (copField w) = some f ∧
        w = formatWord f (copField w) (tselField w) (idxField w) (valueField w) ∧
        (formatBoundsIndex f = true → indexInBuffer (idxField w) = true) ∧
        commandOf (copField w) (tselField w) (idxField w) (valueField w) = some i := by
  rw [decode, decodeCommand]
  cases formatOf (copField w) with
  | none => simp
  | some f =>
    simp only [Option.some.injEq, exists_eq_left', ← mustBeZero_iff, ite_not]
    by_cases fixed : w &&& formatMask f = (copField w).setWidth 24 <<< 20
    · by_cases inBuffer : formatBoundsIndex f = true → indexInBuffer (idxField w) = true
      · have passed : ¬ (formatBoundsIndex f && !indexInBuffer (idxField w)) = true := by simpa using inBuffer
        rw [if_pos fixed, if_neg passed]
        cases commandOf (copField w) (tselField w) (idxField w) (valueField w) with
        | none => simp
        | some named => simpa [fixed] using fun _ => inBuffer
      · have outside : (formatBoundsIndex f && !indexInBuffer (idxField w)) = true := by simpa using inBuffer
        rw [if_pos fixed, if_pos outside]
        simp only [inBuffer, false_and, and_false, reduceCtorEq]
    · rw [if_neg fixed]
      simp only [fixed, false_and, reduceCtorEq]

/-! ### Decoding what is encoded (R73, R77) -/

/-- A word with zeros in bits 19:15, written in the format of its `cop`, decodes to what the `cop` names. -/
theorem decode_fieldsWord {f : Format} {cop : BitVec 4} {tsel : BitVec 2} {idx : BitVec 5} {v : Byte} {i : Instr}
    (format : formatOf cop = some f) (written : fieldsWord cop 0 tsel idx v = formatWord f cop tsel idx v)
    (inBuffer : formatBoundsIndex f = true → indexInBuffer idx = true) (command : commandOf cop tsel idx v = some i) :
    decode (.command (fieldsWord cop 0 tsel idx v)) = .ok i :=
  decode_command_iff.mpr ⟨f, by simpa using ⟨format, written, inBuffer, command⟩⟩

theorem decode_wordN {cop : BitVec 4} {i : Instr} (format : formatOf cop = some .N)
    (command : commandOf cop 0 0 0 = some i) : decode (.command (wordN cop)) = .ok i := by
  rw [wordN_fields]
  exact decode_fieldsWord format (wordN_fields cop).symm nofun command

theorem decode_wordT {cop : BitVec 4} {tsel : BitVec 2} {i : Instr} (format : formatOf cop = some .T)
    (command : commandOf cop tsel 0 0 = some i) : decode (.command (wordT cop tsel)) = .ok i := by
  rw [wordT_fields]
  exact decode_fieldsWord format (wordT_fields cop tsel).symm nofun command

theorem decode_wordI {cop : BitVec 4} {v : Byte} {i : Instr} (format : formatOf cop = some .I)
    (command : commandOf cop 0 0 v = some i) : decode (.command (wordI cop v)) = .ok i := by
  rw [wordI_fields]
  exact decode_fieldsWord format (wordI_fields cop v).symm nofun command

/-- Settles O2: each command is a word in the format of its `cop`, with an index in range where the format bounds it,
and each telegram opcode is the byte of its row in R66. -/
theorem decodeInvertsEncode : Obligations.DecodeInvertsEncode := by
  intro i wf
  cases i with
  | clear tsel => exact decode_wordT rfl rfl
  | rdf tsel idx => exact decode_fieldsWord (f := .F) rfl rfl (fun _ => wf) rfl
  | wrf tsel idx v => exact decode_fieldsWord (f := .W) rfl rfl (fun _ => wf) rfl
  | crcinit => exact decode_wordN rfl rfl
  | crcbyte v => exact decode_wordI rfl rfl
  | crcrd => exact decode_wordN rfl rfl
  | crct tsel => exact decode_wordT rfl rfl
  | finalize tsel => exact decode_wordT rfl rfl
  | encode tsel => exact decode_wordT rfl rfl
  | send tsel => exact decode_wordT rfl rfl
  | decode tsel => exact decode_wordT rfl rfl
  | verify tsel => exact decode_wordT rfl rfl
  | rdseq => exact decode_wordN rfl rfl
  | rderr => exact decode_wordN rfl rfl
  | wrerr v => exact decode_wordI rfl rfl
  | _ => rfl

/-! ### The command table (R76) -/

/-- What a row of the command table is to the decoder and to the encoder: the row of a `cop` and its format. -/
structure IsRowOf (row : CommandRow) (cop : BitVec 4) (f : Format) : Prop where
  format : formatOf cop = some f
  pattern : row.pattern = cop.setWidth 24 <<< 20
  mask : row.mask = formatMask f
  boundsIndex : row.boundsIndex = formatBoundsIndex f
  command : ∀ tsel idx v, commandOf cop tsel idx v = some (row.command tsel idx v)
  encode : ∀ tsel idx v, encode (row.command tsel idx v) = .command (formatWord f cop tsel idx v)
  wellFormed : ∀ tsel idx v, (row.boundsIndex = true → indexInBuffer idx = true) → WellFormed (row.command tsel idx v)

/-- Each of the fifteen rows is the row of its `cop`. -/
theorem exists_isRowOf {row : CommandRow} (h : row ∈ commandRows) : ∃ cop f, IsRowOf row cop f := by
  simp only [commandRows, List.mem_cons, List.not_mem_nil, or_false] at h
  rcases h with rfl | rfl | rfl | rfl | rfl | rfl | rfl | rfl | rfl | rfl | rfl | rfl | rfl | rfl | rfl
  · exact ⟨0x1, .T, rfl, rfl, rfl, rfl, fun _ _ _ => rfl, fun _ _ _ => rfl, fun _ _ _ _ => rfl⟩
  · exact ⟨0x2, .F, rfl, rfl, rfl, rfl, fun _ _ _ => rfl, fun _ _ _ => rfl, fun _ _ _ inBuffer => inBuffer rfl⟩
  · exact ⟨0x3, .W, rfl, rfl, rfl, rfl, fun _ _ _ => rfl, fun _ _ _ => rfl, fun _ _ _ inBuffer => inBuffer rfl⟩
  · exact ⟨0x4, .N, rfl, rfl, rfl, rfl, fun _ _ _ => rfl, fun _ _ _ => rfl, fun _ _ _ _ => rfl⟩
  · exact ⟨0x5, .I, rfl, rfl, rfl, rfl, fun _ _ _ => rfl, fun _ _ _ => rfl, fun _ _ _ _ => rfl⟩
  · exact ⟨0x6, .N, rfl, rfl, rfl, rfl, fun _ _ _ => rfl, fun _ _ _ => rfl, fun _ _ _ _ => rfl⟩
  · exact ⟨0x7, .T, rfl, rfl, rfl, rfl, fun _ _ _ => rfl, fun _ _ _ => rfl, fun _ _ _ _ => rfl⟩
  · exact ⟨0x8, .T, rfl, rfl, rfl, rfl, fun _ _ _ => rfl, fun _ _ _ => rfl, fun _ _ _ _ => rfl⟩
  · exact ⟨0x9, .T, rfl, rfl, rfl, rfl, fun _ _ _ => rfl, fun _ _ _ => rfl, fun _ _ _ _ => rfl⟩
  · exact ⟨0xA, .T, rfl, rfl, rfl, rfl, fun _ _ _ => rfl, fun _ _ _ => rfl, fun _ _ _ _ => rfl⟩
  · exact ⟨0xB, .T, rfl, rfl, rfl, rfl, fun _ _ _ => rfl, fun _ _ _ => rfl, fun _ _ _ _ => rfl⟩
  · exact ⟨0xC, .T, rfl, rfl, rfl, rfl, fun _ _ _ => rfl, fun _ _ _ => rfl, fun _ _ _ _ => rfl⟩
  · exact ⟨0xD, .N, rfl, rfl, rfl, rfl, fun _ _ _ => rfl, fun _ _ _ => rfl, fun _ _ _ _ => rfl⟩
  · exact ⟨0xE, .N, rfl, rfl, rfl, rfl, fun _ _ _ => rfl, fun _ _ _ => rfl, fun _ _ _ _ => rfl⟩
  · exact ⟨0xF, .I, rfl, rfl, rfl, rfl, fun _ _ _ => rfl, fun _ _ _ => rfl, fun _ _ _ _ => rfl⟩

theorem copField_shifted (cop : BitVec 4) : copField (cop.setWidth 24 <<< 20) = cop := by
  rw [shifted_cop, copField_fieldsWord]

/-- Every format fixes the `cop` (R73). -/
theorem copField_masked (f : Format) (w : CmdWord) : copField (w &&& formatMask f) = copField w := by
  rw [← fieldsWord_fields w, masked_fields]
  cases f <;> simp only [copField_fieldsWord]

/-- Every `cop` that has a format has a row. -/
theorem exists_row_of_formatOf {cop : BitVec 4} {f : Format} (format : formatOf cop = some f) :
    ∃ row ∈ commandRows, IsRowOf row cop f := by
  have listed : ∀ cop, (formatOf cop).isSome → ∃ row ∈ commandRows, row.pattern = cop.setWidth 24 <<< 20 := by decide
  obtain ⟨row, mem, pattern⟩ := listed cop (by rw [format]; rfl)
  obtain ⟨cop', f', isRow⟩ := exists_isRowOf mem
  have sameCop : cop' = cop := by
    rw [← copField_shifted cop', ← isRow.pattern, pattern, copField_shifted]
  subst sameCop
  obtain rfl : f' = f := Option.some.inj (isRow.format.symm.trans format)
  exact ⟨row, mem, isRow⟩

/-- Settles O1: a word passes the mask test of a row exactly when its `cop` is the row's and it is written in the row's
format. -/
theorem commandWordsDecodeByTheTable : Obligations.CommandWordsDecodeByTheTable := by
  intro w i
  rw [decode_command_iff]
  constructor
  · rintro ⟨f, format, written, inBuffer, command⟩
    obtain ⟨row, mem, isRow⟩ := exists_row_of_formatOf format
    refine ⟨row, mem, ⟨?_, fun bounds => ?_⟩, Option.some.inj (command.symm.trans (isRow.command _ _ _))⟩
    · rw [isRow.mask, isRow.pattern]
      exact (mustBeZero_iff f w).mpr written
    · exact (indexInBuffer_iff (idxField w)).mp (inBuffer (isRow.boundsIndex ▸ bounds))
  · rintro ⟨row, mem, ⟨masked, inBuffer⟩, rfl⟩
    obtain ⟨cop, f, isRow⟩ := exists_isRowOf mem
    rw [isRow.mask, isRow.pattern] at masked
    obtain rfl : copField w = cop := by rw [← copField_masked f w, masked, copField_shifted]
    exact ⟨f, isRow.format, (mustBeZero_iff f w).mp masked,
      fun bounds => (indexInBuffer_iff (idxField w)).mpr (inBuffer (isRow.boundsIndex ▸ bounds)), isRow.command _ _ _⟩

/-! ### Encoding what is decoded (R66, R76) -/

/-- A command that a word decodes to is well formed and is encoded by the word. -/
theorem encode_of_decode_command {w : CmdWord} {i : Instr} (h : decode (.command w) = .ok i) :
    WellFormed i ∧ encode i = .command w := by
  obtain ⟨f, format, written, inBuffer, command⟩ := decode_command_iff.mp h
  obtain ⟨row, -, isRow⟩ := exists_row_of_formatOf format
  obtain rfl := Option.some.inj (command.symm.trans (isRow.command _ _ _))
  exact ⟨isRow.wellFormed _ _ _ (isRow.boundsIndex ▸ inBuffer), (isRow.encode _ _ _).trans (congrArg _ written.symm)⟩

/-- A constant of R66 is well formed and is encoded by the byte of its row. -/
theorem encode_of_opcodeOf {b : Byte} {i : Instr} (h : opcodeOf b = some i) :
    WellFormed i ∧ encode i = .telegramByte b := by
  rw [opcodeOf] at h
  split at h <;> cases h
  all_goals
    next value => exact ⟨rfl, congrArg CodeUnit.telegramByte (BitVec.eq_of_toNat_eq value.symm)⟩

/-- A telegram opcode that a byte is read as is well formed and is encoded by the byte. -/
theorem encode_of_decode_telegramByte {b : Byte} {i : Instr} (h : decode (.telegramByte b) = .ok i) :
    WellFormed i ∧ encode i = .telegramByte b := by
  rw [decode, decodeTelegramByte] at h
  split at h
  · next constant =>
    cases h
    exact encode_of_opcodeOf constant
  · cases h

/-- Settles O3. -/
theorem encodeInvertsDecode : Obligations.EncodeInvertsDecode := by
  intro u i h
  cases u with
  | command w => exact encode_of_decode_command h
  | telegramByte b => exact encode_of_decode_telegramByte h

/-- Settles O5: twenty-one closed decodings, computed. -/
theorem writtenWordsDecode : Obligations.WrittenWordsDecode := by
  unfold Obligations.WrittenWordsDecode
  decide

/-! ### What a step refuses (R80, R128) -/

/-- An ENCODE of a present telegram whose `arg_cnt` is above 20 is refused (R128). -/
theorem exec_encode_oversized {tsel : BitVec 2} {t : Buf} {s : State} (ht : telegram tsel = some t)
    (large : 20 < (s.field t .argCnt).toNat) :
    exec (.encode tsel) s = .refused (.encodeOversized (s.field t .argCnt)) :=
  (withTelegram_some ht s _).trans (if_pos ((exceedsCapacity_iff _).mpr large))

/-- How a well-formed instruction ends: it completes, or it is an ENCODE that R128 refuses. -/
theorem exec_ends {i : Instr} (wf : WellFormed i) (s : State) :
    (∃ s', exec i s = .next s') ∨
      ∃ tsel t, i = .encode tsel ∧ telegram tsel = some t ∧ 20 < (s.field t .argCnt).toNat := by
  by_cases fits : ∀ tsel t, i = .encode tsel → telegram tsel = some t → (s.field t .argCnt).toNat ≤ 20
  · exact .inl (wellFormedInstructionsComplete i s wf fits)
  · push Not at fits
    obtain ⟨tsel, t, rfl, ht, large⟩ := fits
    exact .inr ⟨tsel, t, rfl, ht, large⟩

/-- Why a step is refused: the word presented is reserved, or is an ENCODE that R128 refuses (R80, R128). -/
def RefusedFor (s : State) (r : Refusal) : Prop :=
  ∃ w env rest, s.inputs = .command w env :: rest ∧
    ((∃ why, decode (.command w) = .error why ∧ r = .reservedWord why) ∨
      ∃ tsel t, decode (.command w) = .ok (.encode tsel) ∧ telegram tsel = some t ∧
        20 < (s.field t .argCnt).toNat ∧ r = .encodeOversized (s.field t .argCnt))

theorem step_of_refusedFor {s : State} {r : Refusal} (h : RefusedFor s r) : step s = .refused r := by
  obtain ⟨w, env, rest, hin, ⟨why, hdec, rfl⟩ | ⟨tsel, t, hdec, ht, large, rfl⟩⟩ := h
  · rw [step, fetch_reserved hin hdec]
  · rw [step_of_fetch_run (fetch_command hin hdec)]
    exact exec_encode_oversized ht large

/-- A step completes, or there is a reason to refuse it. -/
theorem step_completes_or_refusedFor (s : State) : (∃ s', step s = .next s') ∨ ∃ r, RefusedFor s r := by
  cases hin : s.inputs with
  | nil => exact .inl ⟨_, step_of_fetch_quiet (fetch_idle hin)⟩
  | cons x rest =>
    cases x with
    | reset => exact .inl ⟨_, step_of_fetch_quiet (fetch_reset hin)⟩
    | linkByte b =>
      cases hdec : decode (.telegramByte b) with
      | error why => exact .inl ⟨_, step_of_fetch_quiet (fetch_noConstant hin hdec)⟩
      | ok i =>
        exact .inl ⟨_, (step_of_fetch_run (fetch_constant hin hdec)).trans
          (exec_of_encode_telegramByte (encode_of_decode_telegramByte hdec).2 _)⟩
    | command w env =>
      cases hdec : decode (.command w) with
      | error why => exact .inr ⟨_, w, env, rest, hin, .inl ⟨why, hdec, rfl⟩⟩
      | ok i =>
        rw [step_of_fetch_run (fetch_command hin hdec)]
        rcases exec_ends (encode_of_decode_command hdec).1 { s with inputs := rest, env := env } with
          completes | ⟨tsel, t, rfl, ht, large⟩
        · exact .inl completes
        · exact .inr ⟨_, w, env, rest, hin, .inr ⟨tsel, t, hdec, ht, large, rfl⟩⟩

/-- Exactly what a step refuses. -/
theorem step_refused_iff (s : State) (r : Refusal) : step s = .refused r ↔ RefusedFor s r := by
  refine ⟨fun refused => ?_, step_of_refusedFor⟩
  rcases step_completes_or_refusedFor s with ⟨s', done⟩ | ⟨r', reason⟩
  · cases done.symm.trans refused
  · cases (step_of_refusedFor reason).symm.trans refused
    exact reason

/-- Settles O12: a step that does not complete is refused for its reason, so no step faults. -/
theorem stepStopsExactly : Obligations.StepStopsExactly := by
  refine fun s => ⟨fun f faults => ?_, step_refused_iff s⟩
  rcases step_completes_or_refusedFor s with ⟨s', done⟩ | ⟨r, reason⟩
  · cases done.symm.trans faults
  · cases (step_of_refusedFor reason).symm.trans faults

/-- A word is reserved exactly when it matches no row (R77, R80). -/
theorem decode_error_iff (w : CmdWord) :
    (∃ why, decode (.command w) = .error why) ↔ ¬ ∃ row ∈ commandRows, row.Matches w := by
  constructor
  · rintro ⟨why, rejected⟩ ⟨row, mem, matched⟩
    have decoded := (commandWordsDecodeByTheTable w _).mpr ⟨row, mem, matched, rfl⟩
    cases rejected.symm.trans decoded
  · intro unmatched
    cases hdec : decode (.command w) with
    | error why => exact ⟨why, rfl⟩
    | ok i =>
      obtain ⟨row, mem, matched, -⟩ := (commandWordsDecodeByTheTable w i).mp hdec
      exact absurd ⟨row, mem, matched⟩ unmatched

/-- A word whose `cop` is 0 has no format (R77 (1)). -/
theorem decode_reservedCop {w : CmdWord} (h : copField w = 0) : decode (.command w) = .error .reservedCop := by
  rw [decode, decodeCommand, h]
  rfl

/-- Settles O4: the reserved words are those that match no row, and a step that refuses one has found it presented. -/
theorem reservedWordsAreRefused : Obligations.ReservedWordsAreRefused := by
  refine ⟨fun s w env rest hin => ?_, rfl, fun w => decode_reservedCop⟩
  rw [← decode_error_iff]
  constructor
  · rintro ⟨why, refused⟩
    obtain ⟨_, _, _, hin', ⟨why', hdec, -⟩ | ⟨_, _, -, -, -, encodeRefused⟩⟩ := (step_refused_iff s _).mp refused
    · cases hin.symm.trans hin'
      exact ⟨why', hdec⟩
    · cases encodeRefused
  · rintro ⟨why, hdec⟩
    exact ⟨why, (step_refused_iff s _).mpr ⟨w, env, rest, hin, .inl ⟨why, hdec, rfl⟩⟩⟩

/-! ### An opcode byte is not interpreted (R68, R69) -/

/-- Memories that read alike but for byte 0 of a buffer. -/
def AlikeButOpcode (t : Buf) (m m' : Memory) : Prop :=
  ∀ a, a ≠ t.base → readByte m' a = readByte m a

/-- Equally many bytes, alike but for the first. -/
def AlikeButHead (xs ys : List Byte) : Prop :=
  ys.length = xs.length ∧ ys.drop 1 = xs.drop 1

theorem AlikeButHead.refl (xs : List Byte) : AlikeButHead xs xs :=
  ⟨rfl, rfl⟩

theorem AlikeButHead.take {xs ys : List Byte} (h : AlikeButHead xs ys) (k : Nat) :
    AlikeButHead (xs.take k) (ys.take k) := by
  obtain ⟨len, tail⟩ := h
  exact ⟨by rw [List.length_take, List.length_take, len], by rw [List.drop_take, List.drop_take, tail]⟩

theorem AlikeButHead.append {xs ys : List Byte} (h : AlikeButHead xs ys) (pos : 0 < xs.length) (zs : List Byte) :
    AlikeButHead (xs ++ zs) (ys ++ zs) := by
  obtain ⟨len, tail⟩ := h
  refine ⟨by rw [List.length_append, List.length_append, len], ?_⟩
  rw [List.drop_append_of_le_length (by omega), List.drop_append_of_le_length (by omega), tail]

theorem AlikeButHead.drop_eq {xs ys : List Byte} (h : AlikeButHead xs ys) {k : Nat} (pos : 0 < k) :
    ys.drop k = xs.drop k := by
  obtain ⟨k, rfl⟩ := Nat.exists_eq_add_of_le pos
  rw [← List.drop_drop, h.2, List.drop_drop]

theorem AlikeButHead.getD_eq {xs ys : List Byte} (h : AlikeButHead xs ys) {i : Nat} (pos : 0 < i) :
    ys.getD i 0 = xs.getD i 0 := by
  have same := congrArg (·.getD 0 0) (h.drop_eq pos)
  simpa using same

/-! #### The operations of the codec -/

theorem byte_alikeButOpcode {t : Buf} {s : State} {m : Memory} (h : AlikeButOpcode t s.mem m) {i : Nat} (pos : 0 < i) :
    State.byte { s with mem := m } t i = s.byte t i :=
  h (t.base + i) (by omega)

theorem argBytes_alikeButOpcode {t : Buf} {s : State} {m : Memory} (h : AlikeButOpcode t s.mem m) (n : Nat) :
    State.argBytes { s with mem := m } t n = s.argBytes t n :=
  argBytes_congr fun _ _ => byte_alikeButOpcode h (by omega)

theorem telegramCrc_alikeButOpcode {t : Buf} {s : State} {m : Memory} (h : AlikeButOpcode t s.mem m) :
    telegramCrc t { s with mem := m } = telegramCrc t s := by
  have argCnt : State.field { s with mem := m } t .argCnt = s.field t .argCnt := byte_alikeButOpcode h (by decide)
  rw [telegramCrc, telegramCrc, argCnt, argBytes_alikeButOpcode h]

/-- The opcode stands at the front of the frame, and nowhere else (R60). -/
theorem frame_alikeButOpcode {t : Buf} {s : State} {m : Memory} (h : AlikeButOpcode t s.mem m) :
    AlikeButHead (frame t s) (frame t { s with mem := m }) := by
  have fields : ∀ f : Field, f ≠ .opcode → State.field { s with mem := m } t f = s.field t f := fun f hf =>
    byte_alikeButOpcode h (by cases f with | opcode => exact absurd rfl hf | _ => decide)
  have tail : (frame t { s with mem := m }).drop 1 = (frame t s).drop 1 := by
    simp only [frame, List.cons_append, List.drop_one, List.tail_cons, fields .crc8 nofun, fields .sequence nofun,
      fields .status nofun, fields .argCnt nofun, argBytes_alikeButOpcode h]
  exact ⟨by simp only [frame, List.length_append, argBytes_length, fields .argCnt nofun]; rfl, tail⟩

/-- Finalization neither reads nor writes the opcode (R121). -/
theorem finalizeSteps_alikeButOpcode {t : Buf} (r : Res) {s : State} {m : Memory} (h : AlikeButOpcode t s.mem m) :
    ∃ m', finalizeSteps t r { s with mem := m } =
        ((finalizeSteps t r s).1, { (finalizeSteps t r s).2 with mem := m' }) ∧
      AlikeButOpcode t (finalizeSteps t r s).2.mem m' := by
  have argCnt := byte_alikeButOpcode h (i := 4) (by decide)
  refine ⟨(finalizeSteps t r { s with mem := m }).2.mem, Prod.ext ?_ ?_, fun a ha => ?_⟩
  · rw [finalizeSteps_res, finalizeSteps_res, argCnt]
  · rw [finalizeSteps_rest t r s, finalizeSteps_rest, argCnt]
  · by_cases written : t.base + 1 ≤ a ∧ a ≤ t.base + 4
    · obtain ⟨j, rfl⟩ := Nat.exists_eq_add_of_le (Nat.le_of_succ_le written.1)
      change State.byte _ t j = State.byte _ t j
      rw [byte_finalizeSteps, byte_finalizeSteps, argCnt, argBytes_alikeButOpcode h,
        byte_alikeButOpcode h (i := 3) (by decide), byte_alikeButOpcode h (i := j) (by omega)]
    · rw [readByte_finalizeSteps t r _ written, readByte_finalizeSteps t r _ written]
      exact h a ha

/-- How two runs of a command end that started alike but for the opcode byte: with memories and with bytes in `TX`
that are alike but for it, and in everything else the same. -/
structure EndsAlike (t : Buf) (tx : List Byte) (s1 s2 : State) : Prop where
  mem : AlikeButOpcode t s1.mem s2.mem
  tx : ∃ f1 f2, s1.tx = tx ++ f1 ∧ s2.tx = tx ++ f2 ∧ AlikeButHead f1 f2
  rest : s2 = { s1 with mem := s2.mem, tx := s2.tx }

/-- A command that leaves `TX`. -/
theorem EndsAlike.silent {t : Buf} {s1 : State} {m : Memory} {tx : List Byte} (h : AlikeButOpcode t s1.mem m)
    (kept : s1.tx = tx) : EndsAlike t tx s1 { s1 with mem := m } :=
  ⟨h, ⟨[], [], by rw [kept, List.append_nil], by rw [kept, List.append_nil], .refl []⟩, rfl⟩

/-- A command that transmits. -/
theorem EndsAlike.sent {t : Buf} {s1 : State} {m : Memory} {tx f1 f2 : List Byte} (h : AlikeButOpcode t s1.mem m)
    (sent : s1.tx = tx ++ f1) (frames : AlikeButHead f1 f2) :
    EndsAlike t tx s1 { s1 with mem := m, tx := tx ++ f2 } :=
  ⟨h, ⟨f1, f2, sent, rfl, frames⟩, rfl⟩

/-- A transmission sends the opcode as it stands, at the front of the frame (R126, R127). -/
theorem transmit_alikeButOpcode {t : Buf} {r : Res} {s s1 : State} {m : Memory} (h : AlikeButOpcode t s.mem m)
    (sent : transmit t r s = .next s1) :
    ∃ s2, transmit t r { s with mem := m } = .next s2 ∧ EndsAlike t s.tx s1 s2 := by
  have frames := frame_alikeButOpcode h
  rcases transmit_cases t r s with ⟨avail, ok, e⟩ | ⟨unavailable, e⟩ | ⟨k, avail, fails, e⟩ <;>
    obtain rfl := Host.Outcome.next.inj (e.symm.trans sent)
  · refine ⟨_, ?_, .sent h rfl frames⟩
    rw [transmit, if_pos avail, txWrite, ok]
    rfl
  · refine ⟨_, ?_, .silent h rfl⟩
    rw [transmit, if_neg (by rw [unavailable]; decide)]
    rfl
  · refine ⟨_, ?_, .sent h rfl (frames.take k)⟩
    rw [transmit, if_pos avail, txWrite, fails]
    rfl

/-! #### DECODE -/

/-- A telegram stored from headers that are alike but for the opcode (R131, R133). -/
theorem writeBytes_alikeButOpcode {t : Buf} {m m' : Memory} {xs ys : List Byte} (h : AlikeButOpcode t m m')
    (bytes : AlikeButHead xs ys) :
    AlikeButOpcode t (writeBytes m t.base xs) (writeBytes m' t.base ys) := by
  intro a ha
  rw [readByte_writeBytes, readByte_writeBytes, bytes.1]
  by_cases written : t.base ≤ a ∧ a < t.base + xs.length
  · rw [if_pos written, if_pos written, bytes.getD_eq (by omega)]
  · rw [if_neg written, if_neg written, h a ha]

/-- The read of the arguments answers the same, and leaves the same of `RX`, whatever memory holds. -/
theorem readArgs_of_mem (n : Nat) (s : State) :
    ∃ q left, ∀ m, readArgs n { s with mem := m } = (q, { s with mem := m, rx := left }) := by
  rcases Nat.eq_zero_or_pos n with rfl | pos
  · exact ⟨_, _, fun _ => rfl⟩
  · simp only [readArgs_pos pos]
    cases s.env.args with
    | timeout k => exact ⟨.timeout, s.rx.drop (min k (n - 1)), fun _ => rfl⟩
    | fail k => exact ⟨.fail, s.rx.drop (min k (n - 1)), fun _ => rfl⟩
    | arrive =>
      by_cases enough : n ≤ s.rx.length
      · exact ⟨.bytes (s.rx.take n), s.rx.drop n, fun _ => if_pos enough⟩
      · exact ⟨.timeout, [], fun _ => if_neg enough⟩

/-- DECODE after its header read, from headers that are alike but for the opcode. -/
theorem receiveArgs_alikeButOpcode {t : Buf} {header header' : List Byte} {s s1 : State} {m : Memory}
    (h : AlikeButOpcode t s.mem m) (headers : AlikeButHead header header') (len : header.length = 5)
    (received : receiveArgs t header s = .next s1) :
    ∃ m', receiveArgs t header' { s with mem := m } = .next { s1 with mem := m' } ∧ AlikeButOpcode t s1.mem m' := by
  have argCnt : header'.getD 4 0x00 = header.getD 4 0x00 := headers.getD_eq (by decide)
  obtain ⟨q, left, reads⟩ := readArgs_of_mem (argLimit (header.getD 4 0x00)) s
  rw [receiveArgs, reads s.mem] at received
  rw [receiveArgs, argCnt, reads m]
  cases q with
  | timeout =>
    cases received
    exact ⟨m, rfl, h⟩
  | fail =>
    cases received
    exact ⟨m, rfl, h⟩
  | bytes args =>
    dsimp only at received ⊢
    rw [storeTelegram_eq] at received ⊢
    cases received
    rw [argCnt]
    refine ⟨_, rfl, writeBytes_alikeButOpcode h ?_⟩
    rw [List.append_assoc, List.append_assoc]
    exact (headers.take 4).append (by rw [List.length_take]; omega) _

/-- A read delivers its bytes, or ends for a reason that only the answer and the length of `RX` decide (R47, R48). -/
theorem rxRead_arrives_or_ends (n : Nat) (answer : ReadAnswer) (s : State) :
    (answer = .arrive ∧ n ≤ s.rx.length) ∨
      ∃ q e k, q.condition = some e ∧
        ∀ c : State, c.rx.length = s.rx.length → rxRead n answer c = (q, c.setRx (c.rx.drop k)) := by
  cases answer with
  | timeout k => exact .inr ⟨_, _, _, rfl, fun _ _ => rfl⟩
  | fail k => exact .inr ⟨_, _, _, rfl, fun _ _ => rfl⟩
  | arrive =>
    by_cases enough : n ≤ s.rx.length
    · exact .inl ⟨rfl, enough⟩
    · refine .inr ⟨.timeout, .timeout, s.rx.length, rfl, fun c len => ?_⟩
      rw [rxRead, if_neg (len ▸ enough), ← len, List.drop_length]

/-- DECODE from its `RxAvail()` test onward, from streams that are alike but for their first byte, which the header
read takes with the opcode, or nothing takes. -/
theorem receive_alikeButOpcode {t : Buf} {s s1 : State} {m : Memory} {rx : List Byte} (h : AlikeButOpcode t s.mem m)
    (streams : AlikeButHead s.rx rx) (received : receive t s = .next s1) :
    ∃ m' rx', receive t { s with mem := m, rx := rx } = .next { s1 with mem := m', rx := rx' } ∧
      AlikeButOpcode t s1.mem m' ∧ (rx' = s1.rx ∨ (s1.rx = s.rx ∧ rx' = rx)) := by
  cases avail : s.env.rxAvail with
  | false =>
    cases (receive_unavailable avail).symm.trans received
    exact ⟨m, rx, receive_unavailable avail, h, .inr ⟨rfl, rfl⟩⟩
  | true =>
    rcases rxRead_arrives_or_ends 5 s.env.header s with ⟨arrives, enough⟩ | ⟨q, e, k, failed, reads⟩
    · have len : (s.rx.take 5).length = 5 := List.length_take_of_le enough
      have later : rx.drop 5 = s.rx.drop 5 := streams.drop_eq (by decide)
      rw [receive_header_arrived avail arrives len (List.take_append_drop 5 s.rx).symm] at received
      obtain ⟨m', ends, alike⟩ :=
        receiveArgs_alikeButOpcode (s := s.setRx (s.rx.drop 5)) h (streams.take 5) len received
      have arrived := receive_header_arrived (t := t) (c := { s with mem := m, rx := rx }) (header := rx.take 5)
        (later := s.rx.drop 5) avail arrives (List.length_take_of_le (streams.1 ▸ enough))
        (by rw [← later, List.take_append_drop])
      exact ⟨m', s1.rx, arrived.trans ends, alike, .inl rfl⟩
    · cases (receive_header_failed avail (reads s rfl) failed).symm.trans received
      have ends := receive_header_failed (t := t) (c := { s with mem := m, rx := rx }) avail (reads _ streams.1) failed
      refine ⟨m, rx.drop k, ends, h, ?_⟩
      rcases Nat.eq_zero_or_pos k with rfl | pos
      · exact .inr ⟨rfl, rfl⟩
      · exact .inl (streams.drop_eq pos)

theorem setRx_setMem (s : State) (bs : List Byte) (m : Memory) : (s.setRx bs).setMem m = (s.setMem m).setRx bs := rfl

theorem clearBuffer_setRx (s : State) (t : Buf) (bs : List Byte) :
    (s.setRx bs).clearBuffer t = (s.clearBuffer t).setRx bs := by
  simp only [State.clearBuffer, State.setBytes, setRx_mem, setRx_setMem]

/-- Settles O43: DECODE clears its buffer, and then receives from two streams that are alike but for the opcode. -/
theorem receivedOpcodeIsNotInterpreted : Obligations.ReceivedOpcodeIsNotInterpreted := by
  intro s s1 tsel t o o' later ht hrx done
  rw [exec_decode_eq ht] at done
  have streams : AlikeButHead (s.clearBuffer t).rx (o' :: later) := by
    rw [clearBuffer_rx, hrx]
    exact ⟨rfl, rfl⟩
  have untouched : AlikeButOpcode t (s.clearBuffer t).mem (s.clearBuffer t).mem := fun _ _ => rfl
  obtain ⟨m', rx', ends, alike, left⟩ := receive_alikeButOpcode untouched streams done
  rw [clearBuffer_rx, hrx] at left
  have decoded := exec_decode_eq ht (s.setRx (o' :: later))
  rw [clearBuffer_setRx] at decoded
  exact ⟨{ s1 with mem := m', rx := rx' }, decoded.trans ends, alike, left, rfl⟩

/-! #### The five commands -/

theorem exec_encode_eq {tsel : BitVec 2} {t : Buf} {s : State} (ht : telegram tsel = some t)
    (fits : (s.byte t 4).toNat ≤ 20) : exec (.encode tsel) s = transmit t Res.initial s :=
  (withTelegram_some ht s _).trans (if_neg (by rw [exceedsCapacity_iff]; exact Nat.not_lt.mpr fits))

theorem exec_verify_eq {tsel : BitVec 2} {t : Buf} (ht : telegram tsel = some t) (s : State) :
    exec (.verify tsel) s =
      if checksumAccepted (s.field t .crc8) (telegramCrc t s) then
        finish { Res.initial with val := telegramCrc t s, flag := true } s
      else raise .checksumFailure { Res.initial with val := telegramCrc t s } s :=
  withTelegram_some ht s _

section Commands

variable {tsel : BitVec 2} {t : Buf} {s s1 : State} {m : Memory}

theorem exec_finalize_alike (ht : telegram tsel = some t) (h : AlikeButOpcode t s.mem m)
    (done : exec (.finalize tsel) s = .next s1) :
    ∃ s2, exec (.finalize tsel) { s with mem := m } = .next s2 ∧ EndsAlike t s.tx s1 s2 := by
  obtain ⟨m', finalized, alike⟩ := finalizeSteps_alikeButOpcode Res.initial h
  rw [exec_finalize_eq ht] at done ⊢
  cases done
  rw [finalized]
  exact ⟨_, rfl, .silent alike (by rw [finalizeSteps_rest]; rfl)⟩

theorem exec_encode_alike (ht : telegram tsel = some t) (h : AlikeButOpcode t s.mem m)
    (done : exec (.encode tsel) s = .next s1) :
    ∃ s2, exec (.encode tsel) { s with mem := m } = .next s2 ∧ EndsAlike t s.tx s1 s2 := by
  obtain ⟨fits, sent⟩ := execEncode_next ht done
  rw [exec_encode_eq ht ((congrArg BitVec.toNat (byte_alikeButOpcode h (by decide))).trans_le fits)]
  exact transmit_alikeButOpcode h sent

theorem exec_send_alike (ht : telegram tsel = some t) (h : AlikeButOpcode t s.mem m)
    (done : exec (.send tsel) s = .next s1) :
    ∃ s2, exec (.send tsel) { s with mem := m } = .next s2 ∧ EndsAlike t s.tx s1 s2 := by
  obtain ⟨m', finalized, alike⟩ := finalizeSteps_alikeButOpcode Res.initial h
  have kept : (finalizeSteps t Res.initial s).2.tx = s.tx := by rw [finalizeSteps_rest]
  rw [exec_send_eq ht] at done ⊢
  rw [finalized, ← kept]
  exact transmit_alikeButOpcode alike done

theorem exec_decode_alike (ht : telegram tsel = some t) (h : AlikeButOpcode t s.mem m)
    (done : exec (.decode tsel) s = .next s1) :
    ∃ s2, exec (.decode tsel) { s with mem := m } = .next s2 ∧ EndsAlike t s.tx s1 s2 := by
  rw [exec_decode_eq ht] at done ⊢
  obtain ⟨m', rx', ends, alike, left⟩ :=
    receive_alikeButOpcode (writeBytes_alikeButOpcode h (.refl _)) (.refl (s.clearBuffer t).rx) done
  obtain rfl : rx' = s1.rx := left.elim id fun untouched => untouched.2.trans untouched.1.symm
  obtain ⟨-, tx, -⟩ := receive_spec done
  exact ⟨_, ends, .silent alike (tx.trans (clearBuffer_tx s t))⟩

theorem exec_verify_alike (ht : telegram tsel = some t) (h : AlikeButOpcode t s.mem m)
    (done : exec (.verify tsel) s = .next s1) :
    ∃ s2, exec (.verify tsel) { s with mem := m } = .next s2 ∧ EndsAlike t s.tx s1 s2 := by
  have stored : State.field { s with mem := m } t .crc8 = s.field t .crc8 := byte_alikeButOpcode h (by decide)
  have computed := telegramCrc_alikeButOpcode h
  rw [exec_verify_eq ht] at done ⊢
  rw [stored, computed]
  split at done
  · next accepted =>
    cases done
    exact ⟨_, if_pos accepted, .silent h rfl⟩
  · next mismatch =>
    cases done
    exact ⟨_, if_neg mismatch, .silent h rfl⟩

end Commands

/-- Settles O42: a write to byte 0 leaves memory alike but for the opcode, and each of the five commands ends alike. -/
theorem storedOpcodeIsNotInterpreted : Obligations.StoredOpcodeIsNotInterpreted := by
  intro s s1 tsel t b ht i hi done
  have written : AlikeButOpcode t s.mem (writeByte s.mem (t.base + 0) b) := fun a ha => readByte_writeByte_ne s.mem b ha
  obtain ⟨s2, ends, alike, ⟨f1, f2, tx1, tx2, len, tail⟩, rest⟩ :
      ∃ s2, exec i (s.setByte t 0 b) = .next s2 ∧ EndsAlike t s.tx s1 s2 := by
    simp only [List.mem_cons, List.not_mem_nil, or_false] at hi
    rcases hi with rfl | rfl | rfl | rfl | rfl
    · exact exec_finalize_alike ht written done
    · exact exec_encode_alike ht written done
    · exact exec_send_alike ht written done
    · exact exec_decode_alike ht written done
    · exact exec_verify_alike ht written done
  exact ⟨s2, f1, f2, ends, alike, tx1, tx2, len, tail, rest⟩

/-! ### The pseudo-commands (R84) -/

theorem issue_cons {i : Instr} {env : Env} {rest : List (Instr × Env)} {s s' : State}
    (h : exec i { s with env := env } = .next s') : issue ((i, env) :: rest) s = issue rest s' := by
  rw [issue, h]

theorem issue_append {xs ys : List (Instr × Env)} {s s' : State} (h : issue xs s = .next s') :
    issue (xs ++ ys) s = issue ys s' := by
  induction xs generalizing s with
  | nil =>
    cases h
    rfl
  | cons x xs ih =>
    obtain ⟨i, env⟩ := x
    rw [issue] at h
    split at h
    · next s'' done => exact (issue_cons done).trans (ih h)
    · cases h
    · cases h

/-- The CRCBYTEs of CRCSTR and its CRCRD, from any register (R105, R106). -/
theorem issue_crcbytes (env : Env) (bs : List Byte) (s : State) :
    issue ((bs.map Instr.crcbyte ++ [Instr.crcrd]).map fun i => (i, env)) s =
      .next { s with
        env := env
        crcAcc := crcFrom s.crcAcc bs
        res := some { code := 0x00, flag := false, val := crcFrom s.crcAcc bs } } := by
  induction bs generalizing s with
  | nil => rfl
  | cons b bs ih => exact (issue_cons rfl).trans (ih _)

/-- CRCSTR answers the checksum of its bytes, and leaves it in `CRCACC`. -/
theorem issue_crcstr (s : State) (bs : List Byte) :
    issue ((crcstr bs).map fun i => (i, s.env)) s =
      .next { s with crcAcc := crc8 bs, res := some { code := 0x00, flag := false, val := crc8 bs } } :=
  (issue_cons rfl).trans (issue_crcbytes s.env bs _)

/-- A WRF of a byte of a present telegram, as one state (R93). -/
theorem exec_wrf_eq {tsel : BitVec 2} {t : Buf} {idx : BitVec 5} {i : Nat} (ht : telegram tsel = some t)
    (index : idx.toNat = i) (inBuffer : i < 25) (v : Byte) (s : State) :
    exec (.wrf tsel idx v) s =
      .next { s with mem := writeByte s.mem (t.base + i) v, res := some Res.initial } := by
  subst index
  have inRange := (indexInBuffer_iff idx).mpr (Nat.le_of_lt_succ inBuffer)
  change execWrf tsel idx v s = _
  rw [execWrf, withIndex_of_inBuffer inRange, withTelegram_some ht]
  rfl

/-- The WRFs of WRARGS write consecutive bytes. -/
theorem issue_wrargsFrom {tsel : BitVec 2} {t : Buf} (ht : telegram tsel = some t) (j : Nat) (bs : List Byte)
    (fits : j + bs.length ≤ 20) (s : State) :
    ∃ res, issue ((wrargsFrom tsel j bs).map fun i => (i, s.env)) s =
      .next { s with mem := writeBytes s.mem (t.base + (5 + j)) bs, res := res } := by
  induction bs generalizing j s with
  | nil => exact ⟨s.res, rfl⟩
  | cons b bs ih =>
    rw [List.length_cons] at fits
    have index : (BitVec.ofNat 5 (argIndex j)).toNat = 5 + j := Nat.mod_eq_of_lt (by rw [argIndex, hdrLen_eq]; omega)
    obtain ⟨res, later⟩ := ih (j + 1) (by omega)
      { s with mem := writeByte s.mem (t.base + (5 + j)) b, res := some Res.initial }
    exact ⟨res, (issue_cons (exec_wrf_eq ht index (by omega) b _)).trans later⟩

theorem length_wrargsFrom (tsel : BitVec 2) (j : Nat) (bs : List Byte) :
    (wrargsFrom tsel j bs).length = bs.length := by
  induction bs generalizing j with
  | nil => rfl
  | cons b bs ih => rw [wrargsFrom, List.length_cons, ih, List.length_cons]

/-- The memory that WRARGS leaves: its bytes in `args[0..n)`, and then `n` in `arg_cnt`. -/
def wrargsMem (m : Memory) (t : Buf) (bs : List Byte) : Memory :=
  writeByte (writeBytes m (t.base + 5) bs) (t.base + 4) (BitVec.ofNat 8 bs.length)

theorem issue_wrargs {tsel : BitVec 2} {t : Buf} (ht : telegram tsel = some t) {bs : List Byte}
    (fits : bs.length ≤ 20) (s : State) :
    ∃ is, wrargs tsel bs = some is ∧ is.length = bs.length + 1 ∧
      issue (is.map fun i => (i, s.env)) s =
        .next { s with mem := wrargsMem s.mem t bs, res := some { code := 0x00, flag := false, val := 0x00 } } := by
  obtain ⟨res, stored⟩ := issue_wrargsFrom ht 0 bs (by omega) s
  refine ⟨_, if_pos fits, by rw [List.length_append, length_wrargsFrom]; rfl, ?_⟩
  rw [List.map_append, issue_append stored]
  exact issue_cons (exec_wrf_eq (i := 4) ht rfl (by omega) _ _)

theorem readByte_wrargsMem (m : Memory) (t : Buf) (bs : List Byte) (a : Nat) :
    readByte (wrargsMem m t bs) a =
      if a = t.base + 4 then BitVec.ofNat 8 bs.length
      else if t.base + 5 ≤ a ∧ a < t.base + 5 + bs.length then bs.getD (a - (t.base + 5)) 0
      else readByte m a := by
  rw [wrargsMem, readByte_writeByte, readByte_writeBytes]

/-- Settles O46. -/
theorem pseudoCommandsDoTheirWork : Obligations.PseudoCommandsDoTheirWork := by
  refine ⟨fun s bs => ⟨by simp [crcstr], issue_crcstr s bs⟩, fun s tsel t bs ht fits => ?_⟩
  obtain ⟨is, expands, len, ends⟩ := issue_wrargs ht fits s
  refine ⟨is, _, expands, len, ends, ?_, ?_, fun a outside => ?_, rfl⟩
  · refine List.ext_getElem (by simp [bufferBytes]) fun j _ hj => ?_
    simp only [bufferBytes, List.getElem_map, List.getElem_range, State.byte]
    rw [readByte_wrargsMem, if_neg (by omega), if_pos (by omega)]
    rw [Nat.add_sub_add_left, Nat.add_sub_cancel_left, List.getD_eq_getElem bs 0 hj]
  · rw [State.byte, readByte_wrargsMem, if_pos rfl]
    exact Nat.mod_eq_of_lt (by omega)
  · exact (readByte_wrargsMem ..).trans ((if_neg (by omega)).trans (if_neg (by omega)))

end Sys2Proof.Machine
end

section
/-! SUPPORT. Proofs of the statements of `40_telegram_model.md`: the absent telegram (R90), and CLEAR, RDF and WRF of a
present one (R91 to R93). -/

namespace Sys2Proof.Machine

/-! ### The absent telegram (R90) -/

/-- The telegram test ends a command in the state of NullReference, whatever the command goes on to do. -/
theorem withTelegram_rejects {tsel : BitVec 2} (absent : 2 ≤ tsel.toNat) (s : State) (body : Buf → Result) :
    withTelegram tsel s body = .next (rejected s) :=
  withTelegram_none ((telegram_eq_none_iff tsel).mpr absent) s body

/-- An RDF whose index is in range comes to the telegram test (R74, R92). -/
theorem exec_rdf_of_index_le {idx : BitVec 5} (inBuffer : idx.toNat ≤ 24) (tsel : BitVec 2) (s : State) :
    exec (.rdf tsel idx) s =
      withTelegram tsel s fun t => finish { Res.initial with val := s.byte t idx.toNat } s := by
  change execRdf tsel idx s = _
  rw [execRdf, withIndex_of_inBuffer ((indexInBuffer_iff idx).mpr inBuffer)]

/-- A WRF whose index is in range comes to the telegram test (R74, R93). -/
theorem exec_wrf_of_index_le {idx : BitVec 5} (inBuffer : idx.toNat ≤ 24) (tsel : BitVec 2) (v : Byte) (s : State) :
    exec (.wrf tsel idx v) s = withTelegram tsel s fun t => finish Res.initial (s.setByte t idx.toNat v) := by
  change execWrf tsel idx v s = _
  rw [execWrf, withIndex_of_inBuffer ((indexInBuffer_iff idx).mpr inBuffer)]

/-- Settles O16, by cases on the command: each begins with the telegram test, RDF and WRF after their index test. -/
theorem absentTelegramRaisesNullReference : Obligations.AbsentTelegramRaisesNullReference := by
  intro s tsel idx v absent inBuffer i hi
  simp only [List.mem_cons, List.not_mem_nil, or_false] at hi
  rcases hi with rfl | rfl | rfl | others
  · exact withTelegram_rejects absent s _
  · exact (exec_rdf_of_index_le inBuffer tsel s).trans (withTelegram_rejects absent s _)
  · exact (exec_wrf_of_index_le inBuffer tsel v s).trans (withTelegram_rejects absent s _)
  · rcases others with rfl | rfl | rfl | rfl | rfl | rfl <;> exact withTelegram_rejects absent s _

/-! ### The present telegram (R91, R92, R93) -/

theorem exec_clear_eq {tsel : BitVec 2} {t : Buf} (ht : telegram tsel = some t) (s : State) :
    exec (.clear tsel) s = .next ((s.clearBuffer t).setRes (some Res.initial)) :=
  withTelegram_some ht s _

/-- Settles O18: what CLEAR does to memory is what `clearBuffer_spec` says. -/
theorem clearZeroesItsBuffer : Obligations.ClearZeroesItsBuffer := by
  intro s tsel
  refine ⟨fun absent => withTelegram_rejects absent s _, fun t ht => ?_⟩
  obtain ⟨m, cleared, zero, outside, -⟩ := clearBuffer_spec s t
  have ends := exec_clear_eq ht s
  rw [cleared] at ends
  exact ⟨_, ends, zero, outside, rfl⟩

/-- Settles O19: past the index test, RDF ends with the byte as its result. -/
theorem rdfAnswersTheByte : Obligations.RdfAnswersTheByte := by
  intro s tsel idx inBuffer
  rw [exec_rdf_of_index_le inBuffer]
  exact ⟨fun absent => withTelegram_rejects absent s _, fun _ ht => withTelegram_some ht s _⟩

/-- Settles O20: the one write of WRF, read back at its own address and at every other. -/
theorem wrfStoresTheByte : Obligations.WrfStoresTheByte := by
  intro s tsel idx v inBuffer
  rw [exec_wrf_of_index_le inBuffer]
  refine ⟨fun absent => withTelegram_rejects absent s _, fun t ht => ?_⟩
  exact ⟨_, withTelegram_some ht s _, readByte_writeByte_same _ _ v,
    fun _ elsewhere => readByte_writeByte_ne s.mem v elsewhere, rfl⟩

end Sys2Proof.Machine
end

section
/-! SUPPORT. Proofs of the statements of `41_crc8.md`: the checksum bit by bit (R100 to R102), its laws (R103), and the
commands that compute it (R104 to R107). -/

namespace Sys2Proof.Machine

/-! ### One bit iteration (R100) -/

/-- A result bit is the next bit up of the register, and the feedback bit where 0x8C has a tap. -/
theorem getLsbD_crcBit (c : Byte) (d : Bool) (i : Nat) :
    (crcBit c d).getLsbD i = (c.getLsbD (i + 1) ^^ ((c.getLsbD 0 ^^ d) && (0x8C : Byte).getLsbD i)) := by
  unfold crcBit
  split
  next feedback =>
    rw [feedback, BitVec.getLsbD_xor, BitVec.getLsbD_ushiftRight, Nat.add_comm 1, Bool.true_and]
  next silent =>
    rw [Bool.eq_false_of_not_eq_true silent, BitVec.getLsbD_ushiftRight, Nat.add_comm 1, Bool.false_and, Bool.xor_false]

/-- Bit 7 of the result is the feedback bit: the shift clears it, and 0x8C has a tap there. -/
theorem getLsbD_crcBit_seven (c : Byte) (d : Bool) : (crcBit c d).getLsbD 7 = (c.getLsbD 0 ^^ d) := by
  rw [getLsbD_crcBit]
  simp

/-- A bit iteration loses nothing of the register: bit 7 of the result tells the feedback bit, and so bit 0, and the
other bits follow from the feedback bit and the result. -/
theorem crcBit_injective (d : Bool) : Function.Injective (crcBit · d) := by
  intro x y (same : crcBit x d = crcBit y d)
  have feedback : (x.getLsbD 0 ^^ d) = (y.getLsbD 0 ^^ d) := by
    rw [← getLsbD_crcBit_seven, same, getLsbD_crcBit_seven]
  refine BitVec.eq_of_getLsbD_eq fun i _ => ?_
  cases i with
  | zero => exact Bool.xor_left_inj.mp feedback
  | succ i =>
    have bit := congrArg (BitVec.getLsbD · i) same
    simp only [getLsbD_crcBit, feedback] at bit
    exact Bool.xor_left_inj.mp bit

/-- A loop whose every step is injective in the register is injective in the register. -/
theorem foldl_injective {α β : Type} {f : β → α → β} (step : ∀ a, Function.Injective (f · a)) (l : List α) :
    Function.Injective (l.foldl f) := by
  induction l with
  | nil => exact Function.injective_id
  | cons a l ih => exact ih.comp (step a)

/-! ### One byte (R101) -/

theorem crcByte_injective (b : Byte) : Function.Injective (crcByte · b) :=
  foldl_injective (fun i => crcBit_injective (b.getLsbD i)) _

/-- A register that is fed its own bits sees no feedback, and is only shifted. -/
theorem crcBits_self (b : Byte) (n : Nat) :
    (List.range n).foldl (fun c i => crcBit c (b.getLsbD i)) b = b >>> n := by
  induction n with
  | zero => rfl
  | succ n ih =>
    have silent : (b >>> n).getLsbD 0 = b.getLsbD n := BitVec.getLsbD_ushiftRight ..
    rw [List.range_succ, List.foldl_append, ih, List.foldl_cons, List.foldl_nil, crcBit, silent, Bool.xor_self,
      if_neg Bool.false_ne_true, BitVec.shiftRight_add]

/-- A register that is fed itself is shifted out. -/
theorem crcByte_self (b : Byte) : crcByte b b = 0x00 :=
  (crcBits_self b 8).trans (BitVec.ushiftRight_eq_zero (Nat.le_refl 8))

/-- The byte can be folded into the register before the iterations: the exclusive or of the two loops differs by a
register that is fed itself. -/
theorem crcByte_eq_of_xor (c b : Byte) : crcByte c b = crcByte (c ^^^ b) 0x00 :=
  calc crcByte c b
    _ = crcByte ((c ^^^ b) ^^^ b) (0x00 ^^^ b) := by simp
    _ = crcByte (c ^^^ b) 0x00 ^^^ crcByte b b := crcByte_xor ..
    _ = crcByte (c ^^^ b) 0x00 := by simp [crcByte_self]

/-- A register tells its next bytes apart. -/
theorem crcByte_data_injective (c : Byte) : Function.Injective (crcByte c) := by
  intro b b' same
  rw [crcByte_eq_of_xor c b, crcByte_eq_of_xor c b'] at same
  exact (BitVec.xor_right_inj c).mp (crcByte_injective 0x00 same)

/-- With no data bits, an iteration looks at bit 0 of the register alone. -/
theorem crcByte_zero_data (x : Byte) :
    crcByte x 0x00 = (List.range 8).foldl (fun x _ => if x.getLsbD 0 then (x >>> 1) ^^^ 0x8C else x >>> 1) x := by
  have noData (x : Byte) (i : Nat) :
      crcBit x ((0x00 : Byte).getLsbD i) = if x.getLsbD 0 then (x >>> 1) ^^^ 0x8C else x >>> 1 := by
    rw [crcBit, show (0x00 : Byte).getLsbD i = false from BitVec.getLsbD_zero, Bool.xor_false]
  simp only [crcByte, noData]

/-! ### A sequence (R102) -/

theorem crc8_append (xs ys : List Byte) : crc8 (xs ++ ys) = crcFrom (crc8 xs) ys :=
  crcFrom_append ..

/-- The checksum of one byte is that byte shifted out. -/
theorem crc8_singleton (v : Byte) : crc8 [v] = crcByte v 0x00 := by
  change crcByte 0x00 v = _
  rw [crcByte_eq_of_xor, zero_xor]

/-- Later bytes keep two registers apart. -/
theorem crcFrom_injective (bs : List Byte) : Function.Injective (crcFrom · bs) :=
  foldl_injective crcByte_injective bs

/-- The loop of R102 is linear over exclusive or, from any two registers. -/
theorem crcFrom_zipWith_xor {xs ys : List Byte} (len : xs.length = ys.length) (c d : Byte) :
    crcFrom (c ^^^ d) (List.zipWith (fun x y => x ^^^ y) xs ys) = crcFrom c xs ^^^ crcFrom d ys := by
  induction xs generalizing ys c d with
  | nil =>
    obtain rfl := List.eq_nil_of_length_eq_zero len.symm
    rfl
  | cons x xs ih =>
    cases ys with
    | nil => cases len
    | cons y ys =>
      change crcFrom (crcByte (c ^^^ d) (x ^^^ y)) _ = _
      rw [crcByte_xor]
      exact ih (Nat.succ.inj len) _ _

theorem crc8_replicate_zero (n : Nat) : crc8 (List.replicate n 0x00) = 0x00 := by
  induction n with
  | zero => rfl
  | succ n ih =>
    change crcFrom (crcByte 0x00 0x00) (List.replicate n 0x00) = 0x00
    rw [crcByte_self]
    exact ih

theorem one_shiftLeft_ne_zero {k : Nat} (h : k < 8) : (1#8 <<< k) ≠ 0 := by
  interval_cases k <;> decide

/-- Settles O22: (a), (b), (d) and (g) come from folding the byte into the register first, and from a register that is
fed itself; (b), (g) and (h) from injectivity; (e) and (f) from inductions over the bytes. -/
theorem checksumLaws : Obligations.ChecksumLaws := by
  have table (c b : Byte) : crcByte c b = crc8 [c ^^^ b] := by rw [crc8_singleton, crcByte_eq_of_xor]
  have permutation (v v' : Byte) (same : crc8 [v] = crc8 [v']) : v = v' := crcByte_data_injective 0x00 same
  refine ⟨fun c b => ?byteWise, table, permutation, crc8_append, fun xs => ?residue, fun xs ys len => ?linear,
    fun n xs => ?leadingZeros, fun b => ⟨permutation b 0x00, ?zeroByte⟩, fun xs ys b k hk same => ?oneBit⟩
  case byteWise => rw [crcByte_eq_of_xor, crcByte_zero_data]
  case residue => exact (crc8_append xs _).trans (crcByte_self _)
  case linear => exact crcFrom_zipWith_xor len 0x00 0x00
  case leadingZeros =>
    rw [crc8_append, crc8_replicate_zero]
    rfl
  case zeroByte =>
    rintro rfl
    exact crcByte_self 0x00
  case oneBit =>
    rw [crc8_append, crc8_append] at same
    have byte : b ^^^ (1#8 <<< k) = b := crcByte_data_injective _ (crcFrom_injective ys same)
    exact one_shiftLeft_ne_zero hk (xor_left_eq_self_iff.mp byte)

/-- Settles O21: the result bits are `getLsbD_crcBit` at each position. -/
theorem checksumIsBitSerial : Obligations.ChecksumIsBitSerial := by
  refine ⟨fun c d => ⟨rfl, getLsbD_crcBit_seven c d, ?_⟩, fun _ _ => rfl, rfl, fun bs b => crc8_append bs [b]⟩
  simp only [getLsbD_crcBit]
  simp

/-! ### The commands (R104 to R107) -/

/-- Settles O23: each ends with a result over at most a new `CRCACC`. -/
theorem streamedChecksumCommands : Obligations.StreamedChecksumCommands :=
  fun s _ => ⟨finish_eq _ (s.setCrcAcc 0x00), finish_eq _ (s.setCrcAcc _), finish_eq _ s⟩

/-- What CRCT and VERIFY compute, over the bytes of the buffer. -/
theorem telegramCrc_eq (t : Buf) (s : State) :
    telegramCrc t s = crc8 (bufferBytes s t 5 (min (s.byte t 4).toNat 20)) := by
  rw [telegramCrc, argBytes_eq]
  rfl

/-- Settles O24: past the telegram test, CRCT ends with the checksum as its result. -/
theorem crctAnswersTheArgumentChecksum : Obligations.CrctAnswersTheArgumentChecksum := by
  intro s tsel
  refine ⟨fun absent => withTelegram_rejects absent s _, fun t ht => ?_⟩
  rw [← telegramCrc_eq]
  exact withTelegram_some ht s _

end Sys2Proof.Machine
end

section
/-! SUPPORT. Proofs of the statements of `42_codec.md`: what FINALIZE leaves (R121 to R125), what ENCODE transmits (R126,
R127), SEND as the two in turn (R129, R130), what DECODE delivers (R131 to R133) and the round trip (R136), and how
VERIFY judges (R137, R138). -/

namespace Sys2Proof.Machine

/-! ### VERIFY (R137, R138) -/

theorem checksumAccepted_iff {stored computed : Byte} :
    checksumAccepted stored computed = true ↔ stored = 0x00 ∨ stored = computed := by
  simp [checksumAccepted]

/-- Settles O36: past the telegram test, the acceptance test decides between the two ends. -/
theorem verifyJudgesTheChecksum : Obligations.VerifyJudgesTheChecksum := by
  intro s tsel
  refine ⟨fun absent => withTelegram_rejects absent s _, fun t c ht hc => ?_⟩
  rw [← telegramCrc_eq] at hc
  subst hc
  rw [exec_verify_eq ht]
  exact ⟨fun accepted => if_pos (checksumAccepted_iff.mpr accepted),
    fun noSentinel mismatch => if_neg fun accepted => (checksumAccepted_iff.mp accepted).elim noSentinel mismatch⟩

/-! ### FINALIZE (R121 to R125) -/

@[simp] theorem finalizeSteps_env (t : Buf) (r : Res) (s : State) : (finalizeSteps t r s).2.env = s.env := by
  rw [finalizeSteps_rest]

/-- The telegram `t` of `s'` is that of `s`, finalized (R121 to R124). -/
structure Finalized (t : Buf) (s s' : State) : Prop where
  argCnt : (s'.byte t 4).toNat = min (s.byte t 4).toNat 20
  status : s'.byte t 3 = if 20 < (s.byte t 4).toNat then 0x01 else s.byte t 3
  checksum : s'.byte t 1 = if s.byte t 4 = 0x00 then 0x00 else crc8 (bufferBytes s t 5 (min (s.byte t 4).toNat 20))
  sequence : s'.byte t 2 = s.seq
  outside : ∀ a, ¬ (t.base + 1 ≤ a ∧ a ≤ t.base + 4) → readByte s'.mem a = readByte s.mem a

theorem argBytes_eq_bufferBytes (s : State) (t : Buf) (n : Nat) : s.argBytes t n = bufferBytes s t 5 n :=
  argBytes_eq s t n

/-- A state with the memory that the three steps leave. -/
theorem finalized_of_mem {t : Buf} {r : Res} {s s' : State} (h : s'.mem = (finalizeSteps t r s).2.mem) :
    Finalized t s s' where
  argCnt := by
    rw [byte_congr h, byte_finalizeSteps]
    exact toNat_argLimit _
  status := by
    rw [byte_congr h, byte_finalizeSteps]
    rfl
  checksum := by
    rw [byte_congr h, byte_finalizeSteps, argBytes_eq_bufferBytes]
    rfl
  sequence := (byte_congr h t 2).trans (sequence_finalizeSteps t r s)
  outside _ elsewhere := h ▸ readByte_finalizeSteps t r s elsewhere

/-- Settles O26. -/
theorem finalizeClampsChecksumsAndNumbers : Obligations.FinalizeClampsChecksumsAndNumbers := by
  intro s tsel
  refine ⟨fun absent => withTelegram_rejects absent s _, fun t ht => ?_⟩
  obtain ⟨argCnt, status, checksum, sequence, outside⟩ :=
    finalized_of_mem (s' := (finalizeSteps t Res.initial s).2.setRes (some (finalizeSteps t Res.initial s).1)) rfl
  refine ⟨_, exec_finalize_eq ht s, argCnt, status, checksum, sequence, outside, ?_⟩
  rw [finalizeSteps_rest, finalizeSteps_res]
  rfl

/-- A count in range is not clamped (R122). -/
theorem ofNat_min_of_le {n : Byte} (fits : n.toNat ≤ 20) : BitVec.ofNat 8 (min n.toNat 20) = n := by
  rw [Nat.min_eq_left fits, BitVec.ofNat_toNat, BitVec.setWidth_eq]

/-- Finalization of a telegram whose `arg_cnt` is in range and whose checksum is the one that R123 computes writes
nothing new but the number (R125). -/
theorem readByte_finalizeSteps_of_finalized {t : Buf} {s : State} (fits : (s.byte t 4).toNat ≤ 20)
    (crc : s.byte t 1 = if s.byte t 4 = 0x00 then 0x00 else crc8 (s.argBytes t (s.byte t 4).toNat))
    (r : Res) {a : Nat} (h : a ≠ t.base + 2) : readByte (finalizeSteps t r s).2.mem a = readByte s.mem a := by
  by_cases written : t.base + 1 ≤ a ∧ a ≤ t.base + 4
  · obtain ⟨j, rfl⟩ := Nat.exists_eq_add_of_le (Nat.le_of_succ_le written.1)
    change (finalizeSteps t r s).2.byte t j = s.byte t j
    have range : j = 1 ∨ j = 3 ∨ j = 4 := by omega
    rw [byte_finalizeSteps, ofNat_min_of_le fits, Nat.min_eq_left fits, ← crc, if_neg (Nat.not_lt.mpr fits)]
    rcases range with rfl | rfl | rfl <;> rfl
  · exact readByte_finalizeSteps t r s written

/-- The checksum that finalization leaves is the one that R123 computes of the telegram that it leaves. -/
theorem crc8_finalizeSteps (t : Buf) (r : Res) (s : State) :
    (finalizeSteps t r s).2.byte t 1 =
      if (finalizeSteps t r s).2.byte t 4 = 0x00 then 0x00
      else crc8 ((finalizeSteps t r s).2.argBytes t ((finalizeSteps t r s).2.byte t 4).toNat) := by
  obtain ⟨argCnt, -, crc, -, -⟩ := finalized_of_mem (t := t) (r := r) (s := s) rfl
  have none_iff : (finalizeSteps t r s).2.byte t 4 = 0x00 ↔ s.byte t 4 = 0x00 := by
    rw [← BitVec.toNat_inj, ← BitVec.toNat_inj, argCnt]
    change min _ 20 = 0 ↔ _ = 0
    omega
  have args (n : Nat) : (finalizeSteps t r s).2.argBytes t n = s.argBytes t n :=
    argBytes_congr fun j _ => readByte_finalizeSteps t r s (by omega)
  rw [crc, argCnt, args, argBytes_eq_bufferBytes]
  simp only [none_iff]

/-- A FINALIZE of such a telegram (R125). -/
theorem exec_finalize_of_finalized {s : State} {tsel : BitVec 2} {t : Buf} (ht : telegram tsel = some t)
    (fits : (s.byte t 4).toNat ≤ 20)
    (crc : s.byte t 1 = if s.byte t 4 = 0x00 then 0x00 else crc8 (s.argBytes t (s.byte t 4).toNat)) :
    ∃ s', exec (.finalize tsel) s = .next s' ∧ s'.res = some { code := 0x00, flag := true, val := 0x00 } ∧
      s'.lastErr = s.lastErr ∧ s'.byte t 2 = s.seq ∧ s'.seq = s.seq + 1 ∧
      ∀ a, a ≠ t.base + 2 → readByte s'.mem a = readByte s.mem a := by
  have noWarning : ¬ 20 < (s.byte t 4).toNat := Nat.not_lt.mpr fits
  refine ⟨_, exec_finalize_eq ht s, ?_, ?_, sequence_finalizeSteps t _ s, finalizeSteps_seq t _ s,
    fun _ elsewhere => readByte_finalizeSteps_of_finalized fits crc _ elsewhere⟩
  · rw [setRes_res, finalizeSteps_res, if_neg noWarning]
    rfl
  · rw [setRes_lastErr, finalizeSteps_rest, if_neg noWarning]

/-- Settles O27: the first FINALIZE leaves a telegram in range with its checksum, to which the second does nothing but
assign a number. -/
theorem secondFinalizeTakesANewNumber : Obligations.SecondFinalizeTakesANewNumber := by
  intro s tsel t ht
  obtain ⟨s1, first, fits, crc, seq⟩ : ∃ s1, exec (.finalize tsel) s = .next s1 ∧ (s1.byte t 4).toNat ≤ 20 ∧
      (s1.byte t 1 = if s1.byte t 4 = 0x00 then 0x00 else crc8 (s1.argBytes t (s1.byte t 4).toNat)) ∧
      s1.seq = s.seq + 1 := by
    refine ⟨_, exec_finalize_eq ht s, ?_, ?_, finalizeSteps_seq t _ s⟩ <;> simp only [setRes_byte, setRes_argBytes]
    · exact argCnt_finalizeSteps_le t Res.initial s
    · exact crc8_finalizeSteps t Res.initial s
  obtain ⟨s2, second, result, slot, number, advanced, rest⟩ := exec_finalize_of_finalized ht fits crc
  refine ⟨s1, s2, first, second, result, slot, number.trans seq, ?_, rest⟩
  rw [advanced, seq, BitVec.add_assoc]
  rfl

/-! ### ENCODE (R126, R127) -/

theorem frame_eq_bufferBytes (t : Buf) (s : State) : frame t s = bufferBytes s t 0 (5 + (s.byte t 4).toNat) := by
  simp only [frame_eq, bufferBytes, Nat.zero_add]

section Transmit

variable {s : State} (t : Buf) (r : Res)

theorem transmit_ok (avail : s.env.txAvail = true) (ok : s.env.txWrite = .ok) :
    transmit t r s =
      .next { s with tx := s.tx ++ bufferBytes s t 0 (5 + (s.byte t 4).toNat), res := some r } := by
  rw [transmit, if_pos avail, txWrite, ok, frame_eq_bufferBytes]
  rfl

theorem transmit_unavailable (unavailable : s.env.txAvail = false) :
    transmit t r s = .next { s with lastErr := 0xFF, res := some { r with code := 0xFF } } := by
  rw [transmit, unavailable]
  rfl

theorem transmit_fail {k : Nat} (avail : s.env.txAvail = true) (fails : s.env.txWrite = .fail k) :
    transmit t r s =
      .next { s with
        tx := s.tx ++ (bufferBytes s t 0 (5 + (s.byte t 4).toNat)).take k
        lastErr := 0xFF
        res := some { r with code := 0xFF } } := by
  rw [transmit, if_pos avail, txWrite, fails, frame_eq_bufferBytes]
  rfl

end Transmit

/-- Settles O28. -/
theorem encodeAppendsTheFrame : Obligations.EncodeAppendsTheFrame := by
  intro s tsel
  refine ⟨fun absent => withTelegram_rejects absent s _, fun t ht fits => ?_⟩
  rw [exec_encode_eq ht fits]
  exact ⟨transmit_ok t Res.initial, transmit_unavailable t Res.initial, fun _ => transmit_fail t Res.initial⟩

/-! ### SEND (R129, R130) -/

/-- Settles O30: a transmission leaves the memory that finalization left, so its frame is read off the last state. -/
theorem sendFinalizesAndTransmits : Obligations.SendFinalizesAndTransmits := by
  intro s tsel
  refine ⟨fun absent => withTelegram_rejects absent s _, fun t ht => ?_⟩
  obtain ⟨s', sent⟩ := transmit_completes t (finalizeSteps t Res.initial s).1 (finalizeSteps t Res.initial s).2
  obtain ⟨argCnt, status, checksum, sequence, outside⟩ := finalized_of_mem (transmit_keeps sent).1
  have env := finalizeSteps_env t Res.initial s
  have ends {e : State} (h : transmit t _ _ = .next e) : e = s' := Host.Outcome.next.inj (h.symm.trans sent)
  refine ⟨s', (exec_send_eq ht s).trans sent, argCnt, status, checksum, sequence, outside, ?_⟩
  refine ⟨fun avail ok => ?_, fun unavailable => ?_, fun k avail fails => ?_⟩
  · obtain rfl := ends (transmit_ok t _ (env ▸ avail) (env ▸ ok))
    rw [finalizeSteps_rest, finalizeSteps_res]
    rfl
  · obtain rfl := ends (transmit_unavailable t _ (env ▸ unavailable))
    rw [finalizeSteps_rest, finalizeSteps_res]
    rfl
  · obtain rfl := ends (transmit_fail t _ (env ▸ avail) (env ▸ fails))
    rw [finalizeSteps_rest, finalizeSteps_res]
    rfl

/-- A transmission looks at the result that it is given only to present it: the same transmission, begun with the
initial result and over any presented one, differs in the flag, and in the code when it signals nothing. -/
theorem transmit_of_initial (t : Buf) {r : Res} (val : r.val = 0x00) (s : State) (presented : Option Res) :
    ∃ e re, transmit t Res.initial (s.setRes presented) = .next e ∧ e.res = some re ∧
      transmit t r s =
        .next { e with res := some { code := if re.code = 0x00 then r.code else re.code, flag := r.flag,
                                     val := re.val } } := by
  obtain ⟨code, flag, _⟩ := r
  subst val
  rcases transmit_cases t ⟨code, flag, 0x00⟩ s with ⟨avail, ok, e⟩ | ⟨unavailable, e⟩ | ⟨k, avail, fails, e⟩
  · exact ⟨_, _, transmit_ok t _ avail ok, rfl, by rw [e, frame_eq_bufferBytes]; rfl⟩
  · exact ⟨_, _, transmit_unavailable t _ unavailable, rfl, e⟩
  · exact ⟨_, _, transmit_fail t _ avail fails, rfl, by rw [e, frame_eq_bufferBytes]; rfl⟩

/-- Settles O31: what FINALIZE leaves is in range, so the ENCODE after it is the transmission that SEND makes. -/
theorem sendIsFinalizeThenEncode : Obligations.SendIsFinalizeThenEncode := by
  intro s tsel t ht
  have val : (finalizeSteps t Res.initial s).1.val = 0x00 := by
    rw [finalizeSteps_res]
    rfl
  obtain ⟨e, re, encoded, result, sent⟩ := transmit_of_initial t val (finalizeSteps t Res.initial s).2
    (some (finalizeSteps t Res.initial s).1)
  refine ⟨_, e, _, re, exec_finalize_eq ht s, (exec_encode_eq ht ?_).trans encoded, rfl, result,
    (exec_send_eq ht s).trans sent⟩
  rw [setRes_byte]
  exact argCnt_finalizeSteps_le t Res.initial s

/-! ### DECODE (R131 to R133) -/

@[simp] theorem length_bufferBytes (s : State) (t : Buf) (i n : Nat) : (bufferBytes s t i n).length = n := by
  simp [bufferBytes]

@[simp] theorem getElem_bufferBytes {s : State} {t : Buf} {i n j : Nat} (h : j < (bufferBytes s t i n).length) :
    (bufferBytes s t i n)[j] = s.byte t (i + j) := by
  simp [bufferBytes]

/-- Equal memories hold the same bytes. -/
theorem bufferBytes_congr {s s' : State} (h : s'.mem = s.mem) (t : Buf) (i n : Nat) :
    bufferBytes s' t i n = bufferBytes s t i n := by
  simp only [bufferBytes, byte_congr h]

/-- A zero buffer with its first bytes written holds them, and 0x00 beyond (R131). -/
theorem bufferBytes_setBytes_of_zero {s : State} {t : Buf} (zero : ∀ i, i < 25 → s.byte t i = 0x00) {bs : List Byte}
    (fits : bs.length ≤ 25) :
    bufferBytes (s.setBytes t bs) t 0 25 = bs ++ List.replicate (25 - bs.length) 0x00 := by
  refine List.ext_getElem (by simp [fits]) fun j hj _ => ?_
  rw [length_bufferBytes] at hj
  rw [getElem_bufferBytes, Nat.zero_add, byte_setBytes, List.getElem_append]
  split
  next stored => exact List.getD_eq_getElem bs 0 stored
  next beyond => rw [zero j hj, List.getElem_replicate]

/-- Settles O32: the telegram is stored into the buffer that DECODE has cleared. -/
theorem decodeDeliversTheFrame : Obligations.DecodeDeliversTheFrame := by
  intro s tsel t h0 h1 h2 h3 h4 args rest ht avail header arrives len rx
  obtain ⟨m, cleared, zero, outside, -⟩ := clearBuffer_spec s t
  have decoded := exec_decode_eq ht s
  rw [cleared, receive_arrive { s with mem := m } t h0 h1 h2 h3 h4 args rest avail header arrives len rx] at decoded
  have stored : ([h0, h1, h2, h3, BitVec.ofNat 8 (min h4.toNat 20)] ++ args).length = 5 + args.length := by
    rw [List.length_append]
    rfl
  refine ⟨_, decoded, ?_, fun a elsewhere => ?_, rfl⟩
  · have bytes := bufferBytes_setBytes_of_zero (s := { s with mem := m }) zero (stored.trans_le (by omega))
    rw [stored, Nat.add_sub_add_left 5 20] at bytes
    exact (bufferBytes_congr rfl t 0 25).trans bytes
  · exact (readByte_setBytes { s with mem := m } t _ (by omega)).trans (outside a elsewhere)

/-! ### The round trip (R136) -/

/-- Each of the first bytes of a buffer stands in their list. -/
theorem getElem?_of_bufferBytes_eq {s : State} {t : Buf} {n i : Nat} {bs : List Byte} (h : bufferBytes s t 0 n = bs)
    (hi : i < n) : bs[i]? = some (s.byte t i) := by
  have inList : i < (bufferBytes s t 0 n).length := by rwa [length_bufferBytes]
  rw [← h, List.getElem?_eq_getElem inList, getElem_bufferBytes, Nat.zero_add]

theorem bufferBytes_eq_take (s : State) (t : Buf) {n m : Nat} (h : n ≤ m) :
    bufferBytes s t 0 n = (bufferBytes s t 0 m).take n :=
  List.ext_getElem (by simp [h]) fun j _ _ => by simp

/-- A frame is a header and arguments (R60). -/
theorem bufferBytes_eq_header_append (s : State) (t : Buf) (n : Nat) :
    bufferBytes s t 0 (5 + n) =
      [s.byte t 0, s.byte t 1, s.byte t 2, s.byte t 3, s.byte t 4] ++ bufferBytes s t 5 n := by
  simp only [bufferBytes, Nat.zero_add, List.range_add, List.map_append, List.map_map]
  rfl

/-- DECODE of a well-formed frame takes it from `RX`, and leaves its bytes in the buffer and 0x00 beyond. -/
theorem exec_decode_wellFormed {s : State} {tsel : BitVec 2} {t : Buf} {h0 h1 h2 h3 h4 : Byte} {args rest : List Byte}
    (ht : telegram tsel = some t) (avail : s.env.rxAvail = true) (header : s.env.header = .arrive)
    (arrives : s.env.args = .arrive) (fits : h4.toNat ≤ 20) (len : args.length = h4.toNat)
    (rx : s.rx = [h0, h1, h2, h3, h4] ++ args ++ rest) :
    ∃ d, exec (.decode tsel) s = .next d ∧ d.rx = rest ∧ d.tx = s.tx ∧
      bufferBytes d t 0 (5 + h4.toNat) = [h0, h1, h2, h3, h4] ++ args ∧
      ∀ i, 5 + h4.toNat ≤ i → i < 25 → d.byte t i = 0x00 := by
  obtain ⟨d, decoded, bytes, -, kept⟩ := decodeDeliversTheFrame s tsel t h0 h1 h2 h3 h4 args rest ht avail header
    (fun _ => arrives) (len.trans (Nat.min_eq_left fits).symm) rx
  rw [ofNat_min_of_le fits] at bytes
  have frameLen : ([h0, h1, h2, h3, h4] ++ args).length = 5 + h4.toNat := by
    rw [List.length_append, len]
    rfl
  refine ⟨d, decoded, by rw [kept], by rw [kept], ?_, fun i beyond inBuffer => ?_⟩
  · rw [bufferBytes_eq_take d t (by omega : 5 + h4.toNat ≤ 25), bytes, ← frameLen, List.take_left]
  · have byte := getElem?_of_bufferBytes_eq bytes inBuffer
    rw [List.getElem?_append_right (by omega), List.getElem?_replicate, if_pos (by omega)] at byte
    exact (Option.some.inj byte).symm

/-- The first half of R136. -/
theorem encode_of_decode_transmits_frame {s : State} {tsel : BitVec 2} {t : Buf} {h0 h1 h2 h3 h4 : Byte}
    {args rest : List Byte} {env : Env} (ht : telegram tsel = some t) (avail : s.env.rxAvail = true)
    (header : s.env.header = .arrive) (arrives : s.env.args = .arrive) (fits : h4.toNat ≤ 20)
    (len : args.length = h4.toNat) (rx : s.rx = [h0, h1, h2, h3, h4] ++ args ++ rest)
    (txAvail : env.txAvail = true) (ok : env.txWrite = .ok) :
    ∃ d e, exec (.decode tsel) s = .next d ∧ exec (.encode tsel) { d with env := env } = .next e ∧
      e.tx = s.tx ++ ([h0, h1, h2, h3, h4] ++ args) ∧ e.rx = rest := by
  obtain ⟨d, decoded, left, tx, frame, -⟩ := exec_decode_wellFormed ht avail header arrives fits len rx
  have argCnt : d.byte t 4 = h4 := (Option.some.inj (getElem?_of_bufferBytes_eq (i := 4) frame (by omega))).symm
  have encoded : exec (.encode tsel) { d with env := env } = _ :=
    (exec_encode_eq ht (argCnt ▸ fits)).trans (transmit_ok t Res.initial txAvail ok)
  refine ⟨d, _, decoded, encoded, ?_, left⟩
  rw [← frame, ← argCnt, ← tx]
  rfl

/-- The second half of R136: the frame of a telegram, delivered to a DECODE. -/
theorem exec_decode_bufferBytes {a b : State} {bsel : BitVec 2} {ta tb : Buf} {rest : List Byte}
    (hb : telegram bsel = some tb) (fits : (a.byte ta 4).toNat ≤ 20) (avail : b.env.rxAvail = true)
    (header : b.env.header = .arrive) (arrives : b.env.args = .arrive)
    (rx : b.rx = bufferBytes a ta 0 (5 + (a.byte ta 4).toNat) ++ rest) :
    ∃ got, exec (.decode bsel) b = .next got ∧ got.rx = rest ∧
      (∀ i, i < 5 + (a.byte ta 4).toNat → got.byte tb i = a.byte ta i) ∧
      (∀ i, 5 + (a.byte ta 4).toNat ≤ i → i < 25 → got.byte tb i = 0x00) := by
  rw [bufferBytes_eq_header_append] at rx
  obtain ⟨got, decoded, left, -, frame, zero⟩ :=
    exec_decode_wellFormed hb avail header arrives fits (length_bufferBytes ..) rx
  rw [← bufferBytes_eq_header_append] at frame
  refine ⟨got, decoded, left, fun i hi => ?_, zero⟩
  exact Option.some.inj ((getElem?_of_bufferBytes_eq frame hi).symm.trans (getElem?_of_bufferBytes_eq rfl hi))

/-- Settles O35. -/
theorem framesRoundTrip : Obligations.FramesRoundTrip := by
  constructor
  · intro s tsel t h0 h1 h2 h3 h4 args rest env ht avail header arrives fits len rx txAvail ok
    exact encode_of_decode_transmits_frame ht avail header arrives fits len rx txAvail ok
  · intro a b asel bsel ta tb rest ha hb fits txAvail ok
    refine ⟨_, _, (exec_encode_eq ha fits).trans (transmit_ok ta Res.initial txAvail ok), rfl, ?_⟩
    exact exec_decode_bufferBytes hb fits

end Sys2Proof.Machine
end

section
/-! SUPPORT. Proofs of the statements of `43_session.md`: the session register commands (R151 to R153). -/

namespace Sys2Proof.Machine

/-- Settles O39: each command ends by `finish`, from the initial result with the register's value for RDSEQ and RDERR,
and with `LASTERR` replaced and the initial result, which signals nothing, for WRERR. -/
theorem sessionRegisterCommands : Obligations.SessionRegisterCommands := by
  intro s v
  refine ⟨?rdseq, ?rderr, ?wrerr⟩
  case rdseq => exact finish_eq { Res.initial with val := s.seq } s
  case rderr => exact finish_eq { Res.initial with val := s.lastErr } s
  case wrerr => exact finish_eq Res.initial (s.setLastErr v)

end Sys2Proof.Machine
end

section
/-! SUPPORT. Proofs of the statements of `70_reset_and_hazards.md`: reset between two commands (R210 to R212), and the
`arg_cnt` above 20 that ENCODE refuses and SEND clamps (R228). -/

namespace Sys2Proof.Machine

/-- A reset presented next is a step that ends in `resetBlock` (R211). -/
theorem step_reset {s : State} {rest : List Input} (h : s.inputs = .reset :: rest) :
    step s = .next (resetBlock { s with inputs := rest }) :=
  step_of_fetch_quiet (fetch_reset h)

/-- A reset lists no cell, so every byte of a buffer reads 0x00 (R25, R210). -/
theorem byte_resetBlock (s : State) (t : Buf) (i : Nat) : (resetBlock s).byte t i = 0x00 := by
  rw [State.byte, resetBlock_mem]
  exact readByte_nil (t.base + i)

/-- SEND of a present telegram completes, whatever its `arg_cnt` is and whatever the transport answers (R129, R228). -/
theorem exec_send_completes {tsel : BitVec 2} {t : Buf} (ht : telegram tsel = some t) (s : State) :
    ∃ s', exec (.send tsel) s = .next s' := by
  rw [exec_send_eq ht]
  exact transmit_completes t _ _

/-- Settles O9: the reset step ends in `resetBlock` of the state whose input it took, and each field is read off
there. -/
theorem resetStepRestoresTheResetState : Obligations.ResetStepRestoresTheResetState := by
  intro s rest hin
  refine ⟨_, step_reset hin, ?bytes, ?seq, ?lastErr, ?crcAcc, ?rx, ?inputs, ?env, ?seqReset⟩
  case bytes => exact byte_resetBlock _
  case seq => exact resetBlock_seq _
  case lastErr => exact resetBlock_lastErr _
  case crcAcc => exact (resetBlock_crcAcc _).trans crcInit_eq
  case rx => exact resetBlock_rx _
  case inputs => exact resetBlock_inputs _
  case env => exact resetBlock_env _
  case seqReset => exact resetBlock_seqReset _

/-- Settles O29: ENCODE tests the count before it asks anything of the transport, and SEND transmits without that test
what its own finalization has clamped. -/
theorem oversizedEncodeIsRefusedAndSendIsSafe : Obligations.OversizedEncodeIsRefusedAndSendIsSafe := by
  intro s tsel t ht large
  exact ⟨exec_encode_oversized ht large, exec_send_completes ht s⟩

end Sys2Proof.Machine
end

section
/-! SUPPORT. Proofs of the statements that rest on a choice of the model: a stream that ends inside a frame
(assumption 7), and a byte that the link delivers between commands (assumption 1). -/

namespace Sys2Proof.Machine

/-! ### A stream that ends inside a frame (R131, R134, assumption 7) -/

/-- A read that finds fewer bytes than it asks for, with no more to arrive, times out and loses them (assumption 7). -/
theorem rxRead_arrive_short {n : Nat} {s : State} (short : s.rx.length < n) :
    rxRead n .arrive s = (.timeout, s.setRx []) :=
  if_neg (Nat.not_le_of_lt short)

/-- A stream that ends inside the header, or before it. -/
theorem receive_header_short {t : Buf} {c : State} (avail : c.env.rxAvail = true) (arrives : c.env.header = .arrive)
    (short : c.rx.length < 5) : receive t c = raise .timeout Res.initial (c.setRx []) := by
  have read : rxRead 5 c.env.header c = (.timeout, c.setRx []) := by rw [arrives, rxRead_arrive_short short]
  exact receive_header_failed avail read rfl

/-- A stream that ends inside the arguments that its header announces. -/
theorem receive_args_short {t : Buf} {c : State} {h0 h1 h2 h3 h4 : Byte} {later : List Byte}
    (avail : c.env.rxAvail = true) (header : c.env.header = .arrive) (args : c.env.args = .arrive)
    (rx : c.rx = [h0, h1, h2, h3, h4] ++ later) (short : later.length < min h4.toNat 20) :
    receive t c = raise .timeout Res.initial (c.setRx []) := by
  have read : readArgs (min h4.toNat 20) (c.setRx later) = (.timeout, c.setRx []) := by
    rw [readArgs_pos (Nat.zero_lt_of_lt short), setRx_env, args]
    exact rxRead_arrive_short short
  rw [receive_header_arrived avail header rfl rx]
  exact receiveArgs_failed read rfl

/-- Settles O34: whether the header or the arguments fall short, the command times out with `RX` empty, whatever memory
holds. -/
theorem shortStreamTimesOut : Obligations.ShortStreamTimesOut := by
  intro s tsel t ht avail header short
  refine exec_decode_raised (e := .timeout) ht fun m => ?_
  rcases short with inHeader | ⟨h0, h1, h2, h3, h4, later, rx, inArgs, args⟩
  · exact receive_header_short (c := { s with mem := m }) avail header inHeader
  · exact receive_args_short (c := { s with mem := m }) avail header args rx inArgs

/-! ### A byte delivered between commands (R23, R68, assumption 1) -/

theorem carry_eq (b : Byte) (s : State) : carry b s = { s with rx := s.rx ++ [b], res := none } := rfl

/-- A byte presented next is carried, whether it is one of the constants of R66 or not. -/
theorem step_linkByte {s : State} {b : Byte} {rest : List Input} (h : s.inputs = .linkByte b :: rest) :
    step s = .next (carry b { s with inputs := rest }) := by
  cases hdec : decode (.telegramByte b) with
  | error why => exact step_of_fetch_quiet (fetch_noConstant h hdec)
  | ok i =>
    have encoded : encode i = .telegramByte b := (encode_of_decode_telegramByte hdec).2
    rw [step_of_fetch_run (fetch_constant h hdec)]
    exact exec_of_encode_telegramByte encoded _

/-- Settles O7. -/
theorem deliveredByteWaitsInTheTransport : Obligations.DeliveredByteWaitsInTheTransport := by
  intro s b rest h
  rw [step_linkByte h, carry_eq]

/-- Settles O41: an instruction that is encoded by a telegram byte has that byte carried. -/
theorem opcodeConstantsAreCarried : Obligations.OpcodeConstantsAreCarried := by
  intro i b s encoded
  rw [exec_of_encode_telegramByte encoded s, carry_eq]

end Sys2Proof.Machine
end
